-- ==== Sys2Proof/Word.lean ====
section
/-! DEFINITION. The bit vectors of the block and their widths (spec 00_scope R7, R11, R13). -/

namespace Sys2Proof

/-- One cell of the PayloadBuffer (R29, R50). -/
abbrev Byte := BitVec 8

/-- A value of the counter, of width `W = 16` (R7; DESIGN CHOICE, log 1: `W` is not symbolic). -/
abbrev Word := BitVec 16

/-- A 16-bit field or result: humidity, temperature field, temperature (R11, R83). -/
abbrev Half := BitVec 16

/-- A value of the BitCounter (R28). -/
abbrev BitCount := BitVec 6

/-- The 40-bit payload word, first bit received at bit 39 (R53, R80). -/
abbrev Payload := BitVec 40

/-- `CMAX`, the largest counter value (R7). -/
abbrev cmax : Word := 0xFFFF#16

/-- `SENTINEL`, the timeout mark, all bits set (R7). -/
abbrev sentinel : Word := cmax

/-- The BitCounter's start value (R11). -/
abbrev bitcntStart : BitCount := 41#6

/-- The acknowledgment limit: no bit is stored while `BITCNT >= 40` (R11). -/
abbrev ackLimit : Nat := 40

/-- The number of cells of `BUF` (R11, R50). -/
abbrev bufCells : Nat := 5

end Sys2Proof
end

