-- ==== Sys2Proof/Config.lean ====
section
/-! DEFINITION. The parameters a model takes as arguments (spec 00_scope R8, R9, R12).
They are plain data that State carries and nothing writes, so a statement about every state holds for
every value of every parameter. -/

namespace Sys2Proof

/-- Five bytes, one for each cell of `BUF`. -/
structure BufBytes where
  b0 : Byte
  b1 : Byte
  b2 : Byte
  b3 : Byte
  b4 : Byte
deriving DecidableEq, Repr

/-- The parameters of the block. -/
structure Config where
  /-- `THRESHOLD`, the classification threshold in ticks (R8). -/
  threshold : Word
  /-- `START_TICKS`, the length of the request pulse in ticks (R9). -/
  startTicks : Nat
  /-- `RESET_COUNTER`, open (R12). -/
  resetCounter : Word
  /-- `RESET_BUF[0..4]`, open (R12). -/
  resetBuf : BufBytes
  /-- `RESET_TEMP`, open (R12). -/
  resetTemp : Half
  /-- `RESET_RH`, open (R12). -/
  resetRh : Half
deriving DecidableEq, Repr

/-- The constraint the spec puts on the parameters: `1 <= START_TICKS <= 2^W`; `THRESHOLD < 2^W` holds by its type (R7). -/
def Config.wf (c : Config) : Bool := decide (1 ≤ c.startTicks) && decide (c.startTicks ≤ 2 ^ 16)

/-- The spec's defaults for `THRESHOLD` and `START_TICKS` (R8, R9); DESIGN CHOICE: the open reset values are 0 (log 3, unsafe). -/
def Config.default : Config where
  threshold := 800#16
  startTicks := 16000
  resetCounter := 0#16
  resetBuf := ⟨0#8, 0#8, 0#8, 0#8, 0#8⟩
  resetTemp := 0#16
  resetRh := 0#16

end Sys2Proof
end

