-- ==== Sys2Proof/Machine/State.lean ====
section
/-! DEFINITION. The state of the block: the twelve items of spec 10_state R20, and the model's own fields. Plain data. -/

namespace Sys2Proof.Machine

open Sys2Proof

/-- Which edge the capture unit fires on (R25): `falling` is `EDGE = 0`, `rising` is `EDGE = 1`. -/
inductive Edge where
  | falling
  | rising
deriving DecidableEq, Repr

/-- `PHASE`, the source's ConversionState (R31). Codes 5 to 7 are never written and do not exist here (U15). -/
inductive Phase where
  | idle
  | driving
  | listening
  | done
  | timedOut
deriving DecidableEq, Repr

/-- The result codes of `GET_RESULT` (R78, R200). -/
inductive ResultCode where
  | ok
  | ongoing
  | crcError
  | timeout
deriving DecidableEq, Repr

/-- A response of a command, on the response ports of its cycle (R38, R78, R79). -/
inductive Response where
  /-- `resp_code` of `GET_RESULT`. -/
  | result (code : ResultCode)
  /-- `resp_raw` and `resp_bitcnt` of `GET_RAW_DATA`. -/
  | raw (data : Payload) (bitcnt : BitCount)
deriving DecidableEq, Repr

/-- Where the level of `line_in` comes from in a cycle. -/
inductive LineSource where
  /-- The level itself, any sequence of which the block's rules hold for (R109). -/
  | level (high : Bool)
  /-- The environment assumption of R109: the level is low if `DRIVE = 1` or the sensor pulls low, else high. -/
  | sensor (pullsLow : Bool)
deriving DecidableEq, Repr

/-- The inputs of one cycle (R38): `rst`, `cmd` and the source of `line_in`. -/
structure CycleInput where
  rst : Bool
  cmd : BitVec 3
  line : LineSource
deriving DecidableEq, Repr

/-- The block's one address space, `BUF` (R50): the listed cells by rising address, none of which holds what an unlisted
cell reads as. -/
abbrev Memory := List Host.Cell

/-- The state of the block. -/
structure State where
  /-- `COUNTER` (R21). -/
  counter : Word
  /-- `RUN` (R22). -/
  run : Bool
  /-- `OVF_EN` (R23). -/
  ovfEn : Bool
  /-- `CAP_EN` (R24). -/
  capEn : Bool
  /-- `EDGE` (R25). -/
  edge : Edge
  /-- `DRIVE` (R26). -/
  drive : Bool
  /-- `BITCNT` (R28). -/
  bitcnt : BitCount
  /-- `BUF[0..4]` (R29, R50). -/
  buf : Memory
  /-- `LINE_PREV` (R35). -/
  linePrev : Bool
  /-- `PHASE` (R31). -/
  phase : Phase
  /-- `TEMP_OUT`, two's complement (R30). -/
  tempOut : Half
  /-- `RH_OUT` (R30). -/
  rhOut : Half
  /-- The model's own: the parameters of R8, R9 and R12, which nothing writes (log 2). -/
  cfg : Config
  /-- The model's own: the inputs of the coming cycles, the next one first (log 5). -/
  inputs : List CycleInput
  /-- The model's own: what the response ports showed in the cycle just run, if its command gave a response (log 6). -/
  resp : Option Response
deriving DecidableEq, Repr

/-- Why the machine stops with a fault. No step raises either (R201): both belong to an event operation applied to a
state its dispatch word cannot describe (R77). -/
inductive Fault where
  /-- Raised by `CAP_FALL_BIT` on a state with `BITCNT >= 40`: the cell `BITCNT div 8` does not exist (R50, R57). Safe. -/
  | noSuchCell (index : Nat)
  /-- Raised by `CAP_FALL_ACK` and `CAP_FALL_BIT` on a state with `BITCNT = 0`: "`BITCNT - 1` is computed only when
  `BITCNT >= 1`" (R152). Safe. -/
  | bitCounterBorrow
deriving DecidableEq, Repr

/-- Why the machine refuses an instruction. -/
inductive Refusal where
  /-- Raised by `exec` for an instruction that has no meaning yet; no instruction is left in that state. Safe. -/
  | notModelled (mnemonic : String)
deriving DecidableEq, Repr

/-- What an operation answers. -/
abbrev Result := Host.Outcome State Fault Refusal

/-- The machine right after reset (R231). The datapath registers are open (R232): DESIGN CHOICE, 0 (log 3, unsafe);
`BUF` has nothing listed. DESIGN CHOICE: no input is listed yet (log 5). -/
def State.reset : State where
  counter := 0#16
  run := false
  ovfEn := false
  capEn := false
  edge := .falling
  drive := false
  bitcnt := bitcntStart
  buf := []
  linePrev := true
  phase := .idle
  tempOut := 0#16
  rhOut := 0#16
  cfg := Config.default
  inputs := []
  resp := none

end Sys2Proof.Machine
end

