-- ==== Sys2Proof/Machine/Ops.lean ====
section
/-! DEFINITION. The named operations over the buffer, the registers and the inputs of a cycle, over which every meaning
is written. The block takes no exception and returns from none (spec 60_exceptions R201, R207, R208), so the shared
operation of event entry is the event's dispatch (Machine/Timer.lean). -/

namespace Sys2Proof.Machine

open Sys2Proof

/-! ### Outcomes -/

/-- Run `f` on the next state of `o`; a stop stays a stop. -/
def andThen (o : Result) (f : State → Result) : Result :=
  match o with
  | .next s => f s
  | .fault r => .fault r
  | .refused r => .refused r

/-- The next state of an outcome, if it has one. -/
def nextOf (o : Result) : Option State :=
  match o with
  | .next s => some s
  | .fault _ => none
  | .refused _ => none

/-! ### The buffer as memory (20_memory) -/

/-- What an unlisted cell reads as. DESIGN CHOICE (log 4): the reset contents are open (R232). -/
def Memory.unlisted : Byte := 0#8

/-- Read one cell. -/
def Memory.read : Memory → Nat → Byte
  | [], _ => Memory.unlisted
  | (k, v) :: rest, a => if k = a then v else Memory.read rest a

/-- Write one cell and keep the list canonical. -/
def Memory.write : Memory → Nat → Byte → Memory
  | [], a, v => if v = Memory.unlisted then [] else [(a, v)]
  | (k, x) :: rest, a, v =>
    if a < k then (if v = Memory.unlisted then (k, x) :: rest else (a, v) :: (k, x) :: rest)
    else if a = k then (if v = Memory.unlisted then rest else (k, v) :: rest)
    else (k, x) :: Memory.write rest a v

/-- The canonical form from address `lo` on: addresses rise, none is past the last cell, and none is listed at the value
it has unlisted. -/
def Memory.wfFrom : Nat → Memory → Bool
  | _, [] => true
  | lo, (k, v) :: rest => decide (lo ≤ k) && decide (k < bufCells) && decide (v ≠ Memory.unlisted) && Memory.wfFrom (k + 1) rest

/-- The canonical form of the buffer. -/
def Memory.wf (m : Memory) : Bool := Memory.wfFrom 0 m

/-- All five cells at once. -/
def Memory.ofBytes (b : BufBytes) : Memory :=
  ((((Memory.write [] 0 b.b0).write 1 b.b1).write 2 b.b2).write 3 b.b3).write 4 b.b4

/-- All five cells cleared: "zeroes PayloadBuffer" (R51, R120). -/
def Memory.zeroed : Memory := Memory.ofBytes ⟨0#8, 0#8, 0#8, 0#8, 0#8⟩

/-! ### Register updates -/

/-- `COUNTER <- v`. -/
def State.loadCounter (v : Word) (s : State) : State := { s with counter := v }

/-- `RUN <- 1`, "starts the counter". -/
def State.startCounter (s : State) : State := { s with run := true }

/-- `RUN <- 0`, "stops the counter". -/
def State.stopCounter (s : State) : State := { s with run := false }

/-- `OVF_EN <- 1`, "arms the overflow interrupt". -/
def State.armOverflow (s : State) : State := { s with ovfEn := true }

/-- `CAP_EN <- 1`, "arm the capture-edge interrupt". -/
def State.armCapture (s : State) : State := { s with capEn := true }

/-- `OVF_EN <- 0; CAP_EN <- 0`, "disables all decoder interrupts". -/
def State.disableEvents (s : State) : State := { s with ovfEn := false, capEn := false }

/-- `EDGE <- e`. -/
def State.selectEdge (e : Edge) (s : State) : State := { s with edge := e }

/-- `DRIVE <- 1`, "drives the GPIO line low". -/
def State.driveLine (s : State) : State := { s with drive := true }

/-- `DRIVE <- 0`, releases the line. -/
def State.releaseLine (s : State) : State := { s with drive := false }

/-- `BITCNT <- v`. -/
def State.setBitcnt (v : BitCount) (s : State) : State := { s with bitcnt := v }

/-- The buffer as a whole `<- m`. -/
def State.loadBuf (m : Memory) (s : State) : State := { s with buf := m }

/-- `LINE_PREV <- level`. -/
def State.sampleLine (level : Bool) (s : State) : State := { s with linePrev := level }

/-- `PHASE <- p`. -/
def State.enterPhase (p : Phase) (s : State) : State := { s with phase := p }

/-- `TEMP_OUT <- t; RH_OUT <- h`. -/
def State.loadReading (t h : Half) (s : State) : State := { s with tempOut := t, rhOut := h }

/-- The response ports show `r` in this cycle (R38). -/
def State.respond (r : Response) (s : State) : State := { s with resp := some r }

/-- The response ports show nothing: "a model returns no response" (R38). -/
def State.clearResponse (s : State) : State := { s with resp := none }

/-- The cycle is over: its input is used up. -/
def State.endCycle (s : State) : State := { s with inputs := s.inputs.tail }

/-! ### Partial updates -/

/-- `BUF[i] <- v` at a computed index. The address space has the cells 0 to 4 and no other (R50, R57). -/
def storeCell (i : Nat) (v : Byte) (s : State) : Result :=
  if i < bufCells then .next (s.loadBuf (s.buf.write i v)) else .fault (.noSuchCell i)

/-- `BITCNT <- BITCNT - 1`: "computed only when `BITCNT >= 1`, so it never borrows" (R152). -/
def decrementBitcnt (s : State) : Result :=
  if s.bitcnt = 0#6 then .fault .bitCounterBorrow else .next (s.setBitcnt (s.bitcnt - 1#6))

/-! ### The inputs of a cycle -/

/-- The input of a cycle that is not listed: no reset, no command ("cycles not listed carry `0000`"), and the sensor
leaves the line released (R86, R87). DESIGN CHOICE (log 5, unsafe). -/
def idleInput : CycleInput := ⟨false, 0b000#3, .sensor false⟩

/-- The input of the present cycle. -/
def State.input (s : State) : CycleInput := s.inputs.headD idleInput

/-- The CYC word `rst ‖ cmd[2:0]` of an input (R71). -/
def CycleInput.word (x : CycleInput) : BitVec 4 := BitVec.ofBool x.rst ++ x.cmd

/-- The CYC word of the present cycle: what a step decodes. -/
def State.fetchWord (s : State) : BitVec 4 := s.input.word

/-- The level of `line_in` in a cycle with `DRIVE = drive` at its start: as given, or by the wired line of R109. -/
def LineSource.lineIn (drive : Bool) : LineSource → Bool
  | .level high => high
  | .sensor pullsLow => !(drive || pullsLow)

/-- `line_in` in the present cycle. -/
def State.lineIn (s : State) : Bool := s.input.line.lineIn s.drive

end Sys2Proof.Machine
end

