-- ==== Sys2Proof/Machine/Operands.lean ====
section
/-! DEFINITION. Every assembled operand of spec 30_encoding R83, 43_capture_decoder R147 to R149 and 44_result_decoder
R163 to R165. -/

namespace Sys2Proof.Machine

open Sys2Proof

/-! ### The counter -/

/-- `PRELOAD = (2^W - START_TICKS) mod 2^W` (R9). -/
def preload (c : Config) : Word := BitVec.ofNat 16 (2 ^ 16 - c.startTicks)

/-! ### The classifier and the shifter -/

/-- The classified bit: `pw > THRESHOLD`, unsigned and strict (R148). -/
def classify (c : Config) (pw : Word) : Bool := c.threshold.ult pw

/-- `((cell << 1) & 0xFF) | b` (R147). -/
def shiftIn (cell : Byte) (b : Bool) : Byte := (cell <<< 1) ||| (BitVec.ofBool b).setWidth 8

/-- The cell of the bit expected next: `BITCNT div 8` (R149). -/
def byteIndex (bitcnt : BitCount) : Nat := bitcnt.toNat / 8

/-! ### The result fields -/

/-- `(hi << 8) | lo` (R83). -/
def joinBytes (hi lo : Byte) : Half := (hi.setWidth 16 <<< 8) ||| lo.setWidth 16

/-- Humidity, `BUF[4] ‖ BUF[3]` (R164). -/
def rhField (m : Memory) : Half := joinBytes (m.read 4) (m.read 3)

/-- The temperature field `m = BUF[2] ‖ BUF[1]` (R165). -/
def tempField (m : Memory) : Half := joinBytes (m.read 2) (m.read 1)

/-- The value of a sign-magnitude field: `-(m[14:0])` if `m[15] = 1`, else `m[14:0]` (R165; log 14). -/
def signMagnitude (m : Half) : Half :=
  let magnitude : Half := (m.extractLsb' 0 15).setWidth 16
  if m.getLsbD 15 then -magnitude else magnitude

/-- `(BUF[4] + BUF[3] + BUF[2] + BUF[1]) mod 256` (R163). -/
def checksum (m : Memory) : Byte := m.read 4 + m.read 3 + m.read 2 + m.read 1

/-- Five cells as one word, the first one most significant (R79). -/
def joinCells (b4 b3 b2 b1 b0 : Byte) : Payload :=
  (b4.setWidth 40 <<< 32) ||| (b3.setWidth 40 <<< 24) ||| (b2.setWidth 40 <<< 16) ||| (b1.setWidth 40 <<< 8)
    ||| b0.setWidth 40

/-- The cells in receipt order as one word: `BUF[4] ‖ BUF[3] ‖ BUF[2] ‖ BUF[1] ‖ BUF[0]` (R79). -/
def payloadWord (m : Memory) : Payload := joinCells (m.read 4) (m.read 3) (m.read 2) (m.read 1) (m.read 0)

end Sys2Proof.Machine
end

