-- ==== Sys2Proof/Machine/Flags.lean ====
section
/-! DEFINITION. Every condition the rules compute, and the read-only views of the state: the edge detector (spec
40_timer_gpio R104), the event dispatch word (30_encoding R75), the result code (60_exceptions R205), `CTRL` (10_state
R27) and the output ports (R38). -/

namespace Sys2Proof.Machine

open Sys2Proof

/-! ### The edge detector -/

/-- `EDGE` as a bit (R25). -/
def Edge.bit : Edge → Bool
  | .falling => false
  | .rising => true

/-- The inverted `EDGE`: it "is toggled after every event" (R25, R151). -/
def Edge.toggled : Edge → Edge
  | .falling => .rising
  | .rising => .falling

/-- `sel = (EDGE = 1 and rise) or (EDGE = 0 and fall)` (R104). -/
def selectedEdge (e : Edge) (linePrev lineIn : Bool) : Bool :=
  match e with
  | .rising => !linePrev && lineIn
  | .falling => linePrev && !lineIn

/-! ### The event dispatch word -/

/-- The two kinds of event (R203). -/
inductive EventKind where
  | overflow
  | capture
deriving DecidableEq, Repr

/-- Bit `k` of the dispatch word (R75). -/
def EventKind.bit : EventKind → Bool
  | .overflow => false
  | .capture => true

/-- `g`: `BITCNT >= 40` (R75). -/
def inAcknowledgment (s : State) : Bool := decide (ackLimit ≤ s.bitcnt.toNat)

/-- `z`: `BITCNT = 0` (R75). -/
def atLastBit (s : State) : Bool := decide (s.bitcnt = 0#6)

/-- The event dispatch word `k a e g z` (R75). -/
def eventWord (k : EventKind) (s : State) : BitVec 5 :=
  BitVec.ofBool k.bit ++ BitVec.ofBool s.capEn ++ BitVec.ofBool s.edge.bit ++ BitVec.ofBool (inAcknowledgment s)
    ++ BitVec.ofBool (atLastBit s)

/-! ### The result code -/

/-- The four tests of `GET_RESULT`, "the first that applies is reported" (R160, R205). -/
def resultCode (s : State) : ResultCode :=
  if s.run then .ongoing
  else if s.counter = sentinel then .timeout
  else if checksum s.buf ≠ s.buf.read 0 then .crcError
  else .ok

/-- `resp_code` (R78). -/
def ResultCode.code : ResultCode → BitVec 2
  | .ok => 0b00#2
  | .ongoing => 0b01#2
  | .crcError => 0b10#2
  | .timeout => 0b11#2

/-! ### The views of the state -/

/-- The code of `PHASE` (R31). -/
def Phase.code : Phase → BitVec 3
  | .idle => 0#3
  | .driving => 1#3
  | .listening => 2#3
  | .done => 3#3
  | .timedOut => 4#3

/-- The status word `CTRL[4:0]`: `DRIVE EDGE CAP_EN OVF_EN RUN` from bit 4 down (R27). -/
def State.ctrl (s : State) : BitVec 5 :=
  BitVec.ofBool s.drive ++ BitVec.ofBool s.edge.bit ++ BitVec.ofBool s.capEn ++ BitVec.ofBool s.ovfEn
    ++ BitVec.ofBool s.run

/-- The output ports (R38). A response port is absent in a cycle whose command does not produce it. -/
structure Outputs where
  driveLow : Bool
  phase : BitVec 3
  ctrl : BitVec 5
  respCode : Option (BitVec 2)
  respRaw : Option Payload
  respBitcnt : Option BitCount
  tempOut : Half
  rhOut : Half
deriving DecidableEq, Repr

/-- What the ports show: the registers, and the response of the cycle (R38, R102). -/
def State.outputs (s : State) : Outputs where
  driveLow := s.drive
  phase := s.phase.code
  ctrl := s.ctrl
  respCode := match s.resp with | some (.result c) => some c.code | _ => none
  respRaw := match s.resp with | some (.raw d _) => some d | _ => none
  respBitcnt := match s.resp with | some (.raw _ n) => some n | _ => none
  tempOut := s.tempOut
  rhOut := s.rhOut

end Sys2Proof.Machine
end

