-- ==== Sys2Proof/Machine/Control.lean ====
section
/-! DEFINITION. RESET (spec 70_reset_and_hazards R230 to R232), INIT, NOP and the reserved codes (45_control_glue R180 to
R182). -/

namespace Sys2Proof.Machine

open Sys2Proof

/-- RESET (R230): the control state of R231 and the open datapath values of R232. "TICK does not run" and "no response is
produced". -/
def execReset (s : State) : Result :=
  .next (s.stopCounter.disableEvents.releaseLine
    |>.selectEdge .falling
    |>.enterPhase .idle
    |>.setBitcnt bitcntStart
    |>.sampleLine true
    |>.loadCounter s.cfg.resetCounter
    |>.loadBuf (Memory.ofBytes s.cfg.resetBuf)
    |>.loadReading s.cfg.resetTemp s.cfg.resetRh
    |>.clearResponse)

/-- INIT (R180): "disables decoder interrupts, stops the counter", releases the line, `PHASE <- Idle`. It writes nothing
else. -/
def execInit (s : State) : Result :=
  .next (s.disableEvents.stopCounter.releaseLine.enterPhase .idle)

/-- NOP (R181): nothing. -/
def execNop (s : State) : Result := .next s

/-- Command code `101`: exactly as NOP (R74). -/
def execReserved5 (s : State) : Result := .next s

/-- Command code `110`: exactly as NOP (R74). -/
def execReserved6 (s : State) : Result := .next s

/-- Command code `111`: exactly as NOP (R74). -/
def execReserved7 (s : State) : Result := .next s

end Sys2Proof.Machine
end

