-- ==== Sys2Proof/Machine/Readout.lean ====
section
/-! DEFINITION. GET_RESULT and GET_RAW_DATA (spec 44_result_decoder R160 to R172). -/

namespace Sys2Proof.Machine

open Sys2Proof

/-- GET_RESULT (R160): the reading is written "only on `ok`" (R168), and the code is the response. -/
def execGetResult (s : State) : Result :=
  match resultCode s with
  | .ok => .next (s.loadReading (signMagnitude (tempField s.buf)) (rhField s.buf) |>.respond (.result .ok))
  | .ongoing => .next (s.respond (.result .ongoing))
  | .crcError => .next (s.respond (.result .crcError))
  | .timeout => .next (s.respond (.result .timeout))

/-- GET_RAW_DATA (R170): the snapshot of the buffer in receipt order and of `BITCNT`; no state is written. -/
def execGetRawData (s : State) : Result := .next (s.respond (.raw (payloadWord s.buf) s.bitcnt))

end Sys2Proof.Machine
end

