-- ==== Sys2Proof/Machine/StartPulse.lean ====
section
/-! DEFINITION. TRIGGER_READ (spec 41_start_pulse_driver R120 to R124). -/

namespace Sys2Proof.Machine

open Sys2Proof

/-- TRIGGER_READ (R120), in the source's order. It checks no precondition: with `RUN = 1` the same assignments abandon the
conversion in flight (R123; log 13). -/
def execTriggerRead (s : State) : Result :=
  .next (s.setBitcnt bitcntStart
    |>.loadBuf Memory.zeroed
    |>.disableEvents
    |>.driveLine
    |>.loadCounter (preload s.cfg)
    |>.armOverflow
    |>.startCounter
    |>.enterPhase .driving)

end Sys2Proof.Machine
end

