-- ==== Sys2Proof/Syntax.lean ====
section
/-! DEFINITION. The operations of the block, one constructor for each row of spec/opcode_table.json (spec 30_encoding R90). -/

namespace Sys2Proof

/-- One operation. The operands are those the rules name: `line_in` of TICK (R111) and the PulseWidth `pw` of a
capture operation (R84); neither is a field of an operation word (R70). -/
inductive Instr where
  /-- RESET (R230). -/
  | reset
  /-- TICK, operand `line_in` (R111). -/
  | tick (lineIn : Bool)
  /-- NOP (R181). -/
  | nop
  /-- INIT (R180). -/
  | init
  /-- TRIGGER_READ (R120). -/
  | triggerRead
  /-- GET_RESULT (R160). -/
  | getResult
  /-- GET_RAW_DATA (R170). -/
  | getRawData
  /-- Command code `101`, reserved (R74). -/
  | reserved5
  /-- Command code `110`, reserved (R74). -/
  | reserved6
  /-- Command code `111`, reserved (R74). -/
  | reserved7
  /-- OVF_START_END (R131). -/
  | ovfStartEnd
  /-- OVF_TIMEOUT (R132). -/
  | ovfTimeout
  /-- CAP_RISE, operand `pw` ignored (R141). -/
  | capRise (pw : Word)
  /-- CAP_FALL_ACK, operand `pw` ignored (R142). -/
  | capFallAck (pw : Word)
  /-- CAP_FALL_BIT, operand `pw` (R143). -/
  | capFallBit (pw : Word)
  /-- CAP_FALL_LAST, operand `pw` (R144). -/
  | capFallLast (pw : Word)
deriving DecidableEq, Repr

end Sys2Proof
end

