-- ==== Sys2Proof/WellFormed.lean ====
section
/-! DEFINITION. Which operations an operation word can select (spec 30_encoding R71 to R77). -/

namespace Sys2Proof

/-- `i` is selected by some operation word. TICK is not: "TICK has no code of its own: it is part of every non-reset
cycle" (R72). Every other operation is, with every value of its operand (R73, R76). -/
def Instr.wellFormed : Instr → Bool
  | .tick _ => false
  | .reset | .nop | .init | .triggerRead | .getResult | .getRawData | .reserved5 | .reserved6 | .reserved7 => true
  | .ovfStartEnd | .ovfTimeout | .capRise _ | .capFallAck _ | .capFallBit _ | .capFallLast _ => true

end Sys2Proof
end

