-- ==== Sys2Proof/Decode.lean ====
section
/-! DEFINITION. Operation words to operations and back (spec 30_encoding R70 to R77).
Two formats of fixed length: CYC, the 4-bit cycle input word, and EVT, the 5-bit event dispatch word with its operand
`pw` beside it. -/

namespace Sys2Proof

/-- An operation word as the block meets it. -/
inductive OpWord where
  /-- Format CYC: `rst` in bit 3, `cmd` in bits 2 to 0 (R71). -/
  | cyc (w : BitVec 4)
  /-- Format EVT: `k a e g z` in bits 4 to 0 (R75), and the operand the capture unit supplies (R84). -/
  | evt (w : BitVec 5) (pw : Word)
deriving DecidableEq, Repr

/-- The six operations an event can select (R76). -/
inductive EventOp where
  | ovfStartEnd
  | ovfTimeout
  | capRise
  | capFallAck
  | capFallBit
  | capFallLast
deriving DecidableEq, Repr

/-- Why a word selects no operation. -/
inductive DecodeReject where
  /-- EVT `10xxx`: a capture event with `CAP_EN = 0` (R77). -/
  | captureNotArmed
  /-- EVT `11011`: `BITCNT >= 40` and `BITCNT = 0` at once (R77). -/
  | bitCounterContradiction
  /-- A number with a bit set above the five that the longer format has. -/
  | bitsAboveFormat
deriving DecidableEq, Repr

/-- The event operation as an instruction, with the PulseWidth of the event. -/
def EventOp.toInstr (pw : Word) : EventOp → Instr
  | .ovfStartEnd => .ovfStartEnd
  | .ovfTimeout => .ovfTimeout
  | .capRise => .capRise pw
  | .capFallAck => .capFallAck pw
  | .capFallBit => .capFallBit pw
  | .capFallLast => .capFallLast pw

/-- Command codes (R73); codes 5, 6 and 7 are reserved (R74). -/
def decodeCommand (cmd : BitVec 3) : Instr :=
  if cmd = 0b000#3 then .nop
  else if cmd = 0b001#3 then .init
  else if cmd = 0b010#3 then .triggerRead
  else if cmd = 0b011#3 then .getResult
  else if cmd = 0b100#3 then .getRawData
  else if cmd = 0b101#3 then .reserved5
  else if cmd = 0b110#3 then .reserved6
  else .reserved7

/-- Format CYC: bit 3 selects RESET and `cmd` is then ignored (R71). The TICK of a cycle with `rst = 0` has no code of its
own (R72); the step adds it. -/
def decodeCyc (w : BitVec 4) : Instr :=
  if w.getLsbD 3 then .reset else decodeCommand (w.extractLsb' 0 3)

/-- The event dispatch table (R76), bit 4 down to bit 0. -/
def decodeEventOp (w : BitVec 5) : Except DecodeReject EventOp :=
  if w.getLsbD 4 then
    if w.getLsbD 3 then
      if w.getLsbD 2 then .ok .capRise
      else if w.getLsbD 1 then
        if w.getLsbD 0 then .error .bitCounterContradiction else .ok .capFallAck
      else
        if w.getLsbD 0 then .ok .capFallLast else .ok .capFallBit
    else .error .captureNotArmed
  else
    if w.getLsbD 3 then .ok .ovfTimeout else .ok .ovfStartEnd

/-- The decoder: total on words of both formats, and it rejects by name. -/
def decode : OpWord → Except DecodeReject Instr
  | .cyc w => .ok (decodeCyc w)
  | .evt w pw =>
    match decodeEventOp w with
    | .ok op => .ok (op.toInstr pw)
    | .error r => .error r

/-- The encoder: the word that selects an operation, each bit the selection does not read (`x`) at 0, and no word for TICK
(R72). An overflow event carries no PulseWidth; its operand is written as 0. -/
def encode : Instr → Option OpWord
  | .reset => some (.cyc 0b1000#4)
  | .tick _ => none
  | .nop => some (.cyc 0b0000#4)
  | .init => some (.cyc 0b0001#4)
  | .triggerRead => some (.cyc 0b0010#4)
  | .getResult => some (.cyc 0b0011#4)
  | .getRawData => some (.cyc 0b0100#4)
  | .reserved5 => some (.cyc 0b0101#4)
  | .reserved6 => some (.cyc 0b0110#4)
  | .reserved7 => some (.cyc 0b0111#4)
  | .ovfStartEnd => some (.evt 0b00000#5 0#16)
  | .ovfTimeout => some (.evt 0b01000#5 0#16)
  | .capRise pw => some (.evt 0b11100#5 pw)
  | .capFallAck pw => some (.evt 0b11010#5 pw)
  | .capFallBit pw => some (.evt 0b11000#5 pw)
  | .capFallLast pw => some (.evt 0b11001#5 pw)

/-- A number read as an operation word. A 4-bit number is of format CYC and a 5-bit number of format EVT. A number of
whole bytes does not say which format it is of: the spec numbers both from 0. DESIGN CHOICE (log 8): with bit 4 set it
is the EVT word of a capture event (`pw = 0`), else the CYC word of its low four bits. -/
def opWordOfNat (nbits w : Nat) : Except DecodeReject OpWord :=
  match nbits with
  | 4 => if w < 16 then .ok (.cyc (BitVec.ofNat 4 w)) else .error .bitsAboveFormat
  | 5 => if w < 32 then .ok (.evt (BitVec.ofNat 5 w) 0#16) else .error .bitsAboveFormat
  | _ =>
    if w < 16 then .ok (.cyc (BitVec.ofNat 4 w))
    else if w < 32 then .ok (.evt (BitVec.ofNat 5 w) 0#16)
    else .error .bitsAboveFormat

/-- The instruction the decoder reads from a row's word, numbered as spec/opcode_table.json numbers it. -/
def decodeTableWord (nbits w : Nat) : Option Instr :=
  match opWordOfNat nbits w with
  | .ok op =>
    match decode op with
    | .ok i => some i
    | .error _ => none
  | .error _ => none

/-- A row of the opcode table: the bits that are fixed and their value. The word must have all of `mask`'s bits as in
`value`. -/
structure OpcodeRow where
  evt : Bool
  value : Nat
  mask : Nat
deriving DecidableEq, Repr

/-- The opcode table's row of each operation (spec/opcode_table.json, `match` and `mask`). -/
def Instr.row : Instr → OpcodeRow
  | .reset => ⟨false, 0x8, 0x8⟩
  | .tick _ => ⟨false, 0x0, 0x8⟩
  | .nop => ⟨false, 0x0, 0xF⟩
  | .init => ⟨false, 0x1, 0xF⟩
  | .triggerRead => ⟨false, 0x2, 0xF⟩
  | .getResult => ⟨false, 0x3, 0xF⟩
  | .getRawData => ⟨false, 0x4, 0xF⟩
  | .reserved5 => ⟨false, 0x5, 0xF⟩
  | .reserved6 => ⟨false, 0x6, 0xF⟩
  | .reserved7 => ⟨false, 0x7, 0xF⟩
  | .ovfStartEnd => ⟨true, 0x00, 0x18⟩
  | .ovfTimeout => ⟨true, 0x08, 0x18⟩
  | .capRise _ => ⟨true, 0x1C, 0x1C⟩
  | .capFallAck _ => ⟨true, 0x1A, 0x1F⟩
  | .capFallBit _ => ⟨true, 0x18, 0x1F⟩
  | .capFallLast _ => ⟨true, 0x19, 0x1F⟩

/-- A word fits a row: it is of the row's format and has the row's fixed bits. -/
def OpcodeRow.fits (r : OpcodeRow) : OpWord → Bool
  | .cyc w => !r.evt && (w.toNat &&& r.mask) == r.value
  | .evt w _ => r.evt && (w.toNat &&& r.mask) == r.value

end Sys2Proof
end

