-- ==== Sys2Proof/Machine/Capture.lean ====
section
/-! DEFINITION. The four operations of the capture event (spec 43_capture_decoder R141 to R149). -/

namespace Sys2Proof.Machine

open Sys2Proof

/-- `BUF[i] <- ((BUF[i] << 1) & 0xFF) | b` with `b` the classified bit (R145, R147, R148). -/
def storeBit (i : Nat) (pw : Word) (s : State) : Result :=
  storeCell i (shiftIn (s.buf.read i) (classify s.cfg pw)) s

/-- CAP_RISE (R141): "only flip the edge-sensitivity"; `pw` is ignored. -/
def execCapRise (_pw : Word) (s : State) : Result := .next (s.selectEdge .falling)

/-- CAP_FALL_ACK (R142): `BITCNT` steps and no bit is stored; `pw` is ignored. -/
def execCapFallAck (_pw : Word) (s : State) : Result :=
  andThen (decrementBitcnt s) fun t => .next (t.selectEdge .rising)

/-- CAP_FALL_BIT (R143): the bit enters the cell `BITCNT div 8` of `BITCNT` as it was on entry (R149), then `BITCNT`
steps. -/
def execCapFallBit (pw : Word) (s : State) : Result :=
  andThen (storeBit (byteIndex s.bitcnt) pw s) fun t =>
    andThen (decrementBitcnt t) fun u => .next (u.selectEdge .rising)

/-- CAP_FALL_LAST (R144): the fortieth bit enters cell 0, then the conversion ends. -/
def execCapFallLast (pw : Word) (s : State) : Result :=
  andThen (storeBit 0 pw s) fun t =>
    .next (t.disableEvents.stopCounter.enterPhase .done |>.selectEdge .rising)

end Sys2Proof.Machine
end

