-- ==== Sys2Proof/Machine/Overflow.lean ====
section
/-! DEFINITION. The two operations of the overflow event (spec 42_overflow_handler R130 to R134). -/

namespace Sys2Proof.Machine

open Sys2Proof

/-- OVF_START_END, the end of the request pulse (R131). -/
def execOvfStartEnd (s : State) : Result :=
  .next (s.releaseLine.loadCounter 0#16 |>.selectEdge .falling |>.armCapture |>.enterPhase .listening)

/-- OVF_TIMEOUT, the silence timeout (R132). -/
def execOvfTimeout (s : State) : Result :=
  .next (s.disableEvents.stopCounter.loadCounter sentinel |>.enterPhase .timedOut)

end Sys2Proof.Machine
end

