-- ==== Sys2Proof/Machine/Timer.lean ====
section
/-! DEFINITION. TICK (spec 40_timer_gpio R103 to R107, R111, R112) and the entry of an event operation (60_exceptions
R207). -/

namespace Sys2Proof.Machine

open Sys2Proof

/-- Run the operation an event selected, with the PulseWidth of the event. -/
def runEventOp (op : EventOp) (pw : Word) (s : State) : Result :=
  match op with
  | .ovfStartEnd => execOvfStartEnd s
  | .ovfTimeout => execOvfTimeout s
  | .capRise => execCapRise pw s
  | .capFallAck => execCapFallAck pw s
  | .capFallBit => execCapFallBit pw s
  | .capFallLast => execCapFallLast pw s

/-- The entry of an event operation: `OverflowEvent()` (R130) and `CaptureEvent(pw)` (R145, R146). The dispatch word of the
state selects the operation (R75, R76), which runs in the same cycle; "an event operation saves nothing and changes no mode,
mask or stack" (R207). A word that cannot occur is no event (R77; DESIGN CHOICE, log 12). -/
def raiseEvent (k : EventKind) (pw : Word) (s : State) : Result :=
  match decodeEventOp (eventWord k s) with
  | .ok op => runEventOp op pw s
  | .error _ => .next s

/-- TICK as a whole (R111). The dispatch word is formed "from the state at the start of that cycle" (R75); the bits it
reads are not written before the event operation runs. -/
def execTick (lineIn : Bool) (s : State) : Result :=
  let sel := selectedEdge s.edge s.linePrev lineIn
  let t := s.sampleLine lineIn
  if t.run then
    if t.capEn && sel then raiseEvent .capture t.counter (t.loadCounter 0#16)
    else if t.counter = cmax then
      if t.ovfEn then raiseEvent .overflow 0#16 (t.loadCounter 0#16) else .next (t.loadCounter 0#16)
    else .next (t.loadCounter (t.counter + 1#16))
  else .next t

end Sys2Proof.Machine
end

