-- ==== Sys2Proof/Machine/Dispatch.lean ====
section
/-! DEFINITION. One arm per row of spec/opcode_table.json. -/

namespace Sys2Proof.Machine

open Sys2Proof

def exec (i : Instr) (s : State) : Host.Outcome State Fault Refusal :=
  match i with
  | .reset => Sys2Proof.Machine.execReset s
  | .tick lineIn => Sys2Proof.Machine.execTick lineIn s
  | .nop => Sys2Proof.Machine.execNop s
  | .init => Sys2Proof.Machine.execInit s
  | .triggerRead => Sys2Proof.Machine.execTriggerRead s
  | .getResult => Sys2Proof.Machine.execGetResult s
  | .getRawData => Sys2Proof.Machine.execGetRawData s
  | .reserved5 => Sys2Proof.Machine.execReserved5 s
  | .reserved6 => Sys2Proof.Machine.execReserved6 s
  | .reserved7 => Sys2Proof.Machine.execReserved7 s
  | .ovfStartEnd => Sys2Proof.Machine.execOvfStartEnd s
  | .ovfTimeout => Sys2Proof.Machine.execOvfTimeout s
  | .capRise pw => Sys2Proof.Machine.execCapRise pw s
  | .capFallAck pw => Sys2Proof.Machine.execCapFallAck pw s
  | .capFallBit pw => Sys2Proof.Machine.execCapFallBit pw s
  | .capFallLast pw => Sys2Proof.Machine.execCapFallLast pw s

end Sys2Proof.Machine
end

