-- ==== Sys2Proof/Machine/Cycle.lean ====
section
/-! DEFINITION. One clock cycle (spec 40_timer_gpio R110), and how a word is placed in front of the next one. -/

namespace Sys2Proof.Machine

open Sys2Proof

/-- One cycle (R110): RESET alone if `rst = 1`; else TICK, with at most one event operation in it, and then the command on
the state TICK leaves. The response ports show only this cycle's response (R38). -/
def runCycle (s : State) : Result :=
  let t := s.clearResponse
  let i := decodeCyc t.fetchWord
  andThen (if i = .reset then exec .reset t else andThen (exec (.tick t.lineIn) t) (exec i)) fun u => .next u.endCycle

/-- Put `x` in the place of the next cycle's input. -/
def State.present (x : CycleInput) (s : State) : State := { s with inputs := x :: s.inputs.tail }

/-- A BitCounter value with the given `g` and `z` (R75): the present one if it has them, else 40, 0 or 39. -/
def bitcntFor (g z : Bool) (n : BitCount) : BitCount :=
  if decide (ackLimit ≤ n.toNat) = g && decide (n = 0#6) = z then n
  else if g then 40#6 else if z then 0#6 else 39#6

/-- The state in which the next TICK raises the event of the dispatch word `e`, with PulseWidth `pw` for a capture event:
the registers the word is formed from (R75), the counter, its run state, the event's enable, and the line (R106, R107). -/
def placeEvent (e : BitVec 5) (pw : Word) (s : State) : State :=
  let edge := if e.getLsbD 2 then Edge.rising else Edge.falling
  let t := { s with run := true, capEn := e.getLsbD 3, edge := edge, bitcnt := bitcntFor (e.getLsbD 1) (e.getLsbD 0) s.bitcnt }
  if e.getLsbD 4 then
    { t with counter := pw, linePrev := !edge.bit }.present ⟨false, 0b000#3, .level edge.bit⟩
  else
    { t with counter := cmax, ovfEn := true }.present ⟨false, 0b000#3, .level s.linePrev⟩

/-- The state in which the next cycle runs the word `w`: a CYC word is that cycle's input, with the line level kept so that
its TICK sees no edge; an EVT word needs the state that raises its event. A word that decodes to nothing changes nothing
(log 7). -/
def placeWord (nbits w : Nat) (s : State) : State :=
  match opWordOfNat nbits w with
  | .ok (.cyc c) => s.present ⟨c.getLsbD 3, c.extractLsb' 0 3, .level s.linePrev⟩
  | .ok (.evt e pw) =>
    match decodeEventOp e with
    | .ok _ => placeEvent e pw s
    | .error _ => s
  | .error _ => s

end Sys2Proof.Machine
end

