-- ==== Sys2Proof/Machine/Step.lean ====
section
/-! DEFINITION. The step: one clock cycle of the block (spec 40_timer_gpio R110). -/

namespace Sys2Proof.Machine

open Sys2Proof

/-- One step is one clock cycle (R16, R110). -/
def step (s : State) : Host.Outcome State Fault Refusal := runCycle s

/-- `s` with a word placed where the next step meets it. -/
def State.withFetchWord (s : State) (nbits w : Nat) : State := placeWord nbits w s

end Sys2Proof.Machine
end

