-- ==== Sys2Proof/Machine/Script.lean ====
section
/-! DEFINITION. The stimulus notation of spec 30_encoding R86 to R89: statements of a cycle, of the environment and of an
event, and the pseudo-statements' expansions. It is "a way of writing stimulus, not part of the block". -/

namespace Sys2Proof.Machine

open Sys2Proof

/-- `n` cycles of the block. -/
def cycles : Nat → State → Result
  | 0, s => .next s
  | n + 1, s => andThen (step s) (cycles n)

namespace Script

/-! ### Cycle level -/

/-- The cycle-level statements (R86). -/
inductive CycleStmt where
  | reset
  | nop
  | init
  | triggerRead
  | getResult
  | getRawData
  | wait (n : Nat)
deriving DecidableEq, Repr

/-- The CYC words a statement presents, one a cycle (R86). RESET's `cmd` is `000` here. -/
def CycleStmt.words : CycleStmt → List (BitVec 4)
  | .reset => [0b1000#4]
  | .nop => [0b0000#4]
  | .init => [0b0001#4]
  | .triggerRead => [0b0010#4]
  | .getResult => [0b0011#4]
  | .getRawData => [0b0100#4]
  | .wait n => List.replicate n 0b0000#4

/-- The environment statements (R87): the sensor leaves the line released, or pulls it low, for `n` cycles. -/
inductive EnvStmt where
  | high (n : Nat)
  | low (n : Nat)
deriving DecidableEq, Repr

/-- Whether the sensor pulls the line low, cycle by cycle (R87). -/
def EnvStmt.pulls : EnvStmt → List Bool
  | .high n => List.replicate n false
  | .low n => List.replicate n true

/-- `bit0` and `bit1` (R89). -/
def envBit (b : Bool) : List EnvStmt := [.low 800, .high (if b then 1120 else 448)]

/-- `byte b`: most significant bit first (R89). -/
def envByte (b : Byte) : List EnvStmt :=
  envBit (b.getLsbD 7) ++ envBit (b.getLsbD 6) ++ envBit (b.getLsbD 5) ++ envBit (b.getLsbD 4)
    ++ envBit (b.getLsbD 3) ++ envBit (b.getLsbD 2) ++ envBit (b.getLsbD 1) ++ envBit (b.getLsbD 0)

/-- `frame b1 b2 b3 b4 b5` at cycle level (R89). -/
def envFrame (b1 b2 b3 b4 b5 : Byte) : List EnvStmt :=
  [.high 480, .low 1280, .high 1280] ++ envByte b1 ++ envByte b2 ++ envByte b3 ++ envByte b4 ++ envByte b5 ++ [.low 800]

/-- The inputs of a run with the sensor's behaviour beginning after `release` cycles; outside it the sensor leaves the line
released (R87). The cycle in which R87 begins it is found by `benchRun`. -/
def schedule (release : Nat) (pulls : List Bool) : List (BitVec 4) → List CycleInput
  | [] => []
  | w :: rest =>
    match release with
    | n + 1 => ⟨w.getLsbD 3, w.extractLsb' 0 3, .sensor false⟩ :: schedule n pulls rest
    | 0 => ⟨w.getLsbD 3, w.extractLsb' 0 3, .sensor (pulls.headD false)⟩ :: schedule 0 pulls.tail rest

/-- How far the sensor is (R87): not begun, or at the given rest of its behaviour. -/
inductive Sensor where
  | waiting
  | playing (pulls : List Bool)
deriving DecidableEq, Repr

/-- Whether the sensor pulls the line low in the cycle: "after the last statement the sensor leaves the line released for
ever" (R87). -/
def Sensor.pull : Sensor → Bool
  | .waiting => false
  | .playing pulls => pulls.headD false

/-- The sensor after a cycle. It begins once, in the cycle after the one that ended the start pulse (R87; log 17). -/
def Sensor.advance (behaviour : List Bool) (pulseEnded : Bool) : Sensor → Sensor
  | .waiting => if pulseEnded then .playing behaviour else .waiting
  | .playing pulls => .playing pulls.tail

/-- The cycle from `s` to `t` ran OVF_START_END (the overflow event with `CAP_EN = 0`, R107, R130), and the line is released
at its end, so that the next cycle is "the first cycle at whose start `DRIVE = 0` after the start pulse" (R87). -/
def startPulseEnded (rst : Bool) (s t : State) : Bool :=
  !rst && s.run && s.ovfEn && !s.capEn && decide (s.counter = cmax) && !t.drive

/-- The block with the sensor on its line. -/
structure Bench where
  sensor : Sensor
  state : State
deriving DecidableEq, Repr

/-- One cycle of the bench: the host presents a CYC word and the sensor drives the wired line (R86, R87, R109). -/
def benchCycle (behaviour : List Bool) (w : BitVec 4) (b : Bench) : Option Bench :=
  (nextOf (step (b.state.present ⟨w.getLsbD 3, w.extractLsb' 0 3, .sensor b.sensor.pull⟩))).map fun t =>
    ⟨b.sensor.advance behaviour (startPulseEnded (w.getLsbD 3) b.state t), t⟩

/-- A CYC word a cycle. -/
def benchRun (behaviour : List Bool) : List (BitVec 4) → Bench → Option Bench
  | [], b => some b
  | w :: rest, b => (benchCycle behaviour w b).bind (benchRun behaviour rest)

/-- `POLL` on the bench (R89), at most `fuel` times. -/
def benchPoll (behaviour : List Bool) : Nat → Bench → Option Bench
  | 0, b => some b
  | fuel + 1, b => (benchCycle behaviour 0b0011#4 b).bind fun c =>
      if c.state.resp = some (.result .ongoing) then benchPoll behaviour fuel c else some c

/-- A cycle-level script: the host's statements (R86) and the environment's (R87), from a state. -/
def cycleScript (host : List CycleStmt) (env : List EnvStmt) (s : State) : Option Bench :=
  benchRun (env.flatMap EnvStmt.pulls) (host.flatMap CycleStmt.words) ⟨.waiting, s⟩

/-- `POLL` (R89), at most `fuel` times: GET_RESULT in consecutive cycles until the response is not `ongoing`. -/
def poll : Nat → State → Result
  | 0, s => .next s
  | fuel + 1, s =>
    andThen (step (s.present ⟨false, 0b011#3, s.input.line⟩)) fun t =>
      if t.resp = some (.result .ongoing) then poll fuel t else .next t

/-! ### Event level -/

/-- The event-level statements (R88). -/
inductive EventStmt where
  /-- A command's name applies the command with no TICK. -/
  | command (cmd : BitVec 3)
  /-- `OVF` applies `OverflowEvent()`. -/
  | ovf
  /-- `CAP pw` applies `CaptureEvent(pw)`. -/
  | cap (pw : Word)
  /-- `CAP pw` written where `EDGE = 0`. -/
  | fall (pw : Word)
  /-- `CAP pw` written where `EDGE = 1`. -/
  | rise (pw : Word)
deriving DecidableEq, Repr

/-- `COUNTER <- 0; CaptureEvent(pw)` (R88, R106, R113). With `CAP_EN = 0` the handler's body does not say whether it runs (R145)
and R77 leaves the arm to the model: DESIGN CHOICE (log 16), `COUNTER` is cleared, the timeout sentinel too, and nothing else
changes. -/
def applyCapture (pw : Word) (s : State) : Result := raiseEvent .capture pw (s.loadCounter 0#16)

/-- `COUNTER <- 0; OverflowEvent()` (R88, R107, R113). -/
def applyOverflow (s : State) : Result := raiseEvent .overflow 0#16 (s.loadCounter 0#16)

/-- One statement. `FALL` and `RISE` are "a check on the script": with the other edge selected the script is wrong and has
no next state. -/
def EventStmt.apply (e : EventStmt) (s : State) : Option State :=
  match e with
  | .command cmd => nextOf (exec (decodeCommand cmd) s)
  | .ovf => nextOf (applyOverflow s)
  | .cap pw => nextOf (applyCapture pw s)
  | .fall pw => if s.edge = .falling then nextOf (applyCapture pw s) else none
  | .rise pw => if s.edge = .rising then nextOf (applyCapture pw s) else none

/-- A script, one statement after another. -/
def apply : List EventStmt → State → Option State
  | [], s => some s
  | e :: rest, s => (e.apply s).bind (apply rest)

/-- `BIT0` and `BIT1` (R89). -/
def bitEvents (b : Bool) : List EventStmt := [.rise 799#16, .fall (if b then 1119#16 else 447#16)]

/-- `BYTE b`: for `k = 7` down to 0 (R89). -/
def byteEvents (b : Byte) : List EventStmt :=
  bitEvents (b.getLsbD 7) ++ bitEvents (b.getLsbD 6) ++ bitEvents (b.getLsbD 5) ++ bitEvents (b.getLsbD 4)
    ++ bitEvents (b.getLsbD 3) ++ bitEvents (b.getLsbD 2) ++ bitEvents (b.getLsbD 1) ++ bitEvents (b.getLsbD 0)

/-- `ACKSEQ` (R89). -/
def ackEvents : List EventStmt := [.fall 480#16, .rise 1279#16, .fall 1279#16]

/-- `FRAME b1 b2 b3 b4 b5` at event level (R89). -/
def frameEvents (b1 b2 b3 b4 b5 : Byte) : List EventStmt :=
  ackEvents ++ byteEvents b1 ++ byteEvents b2 ++ byteEvents b3 ++ byteEvents b4 ++ byteEvents b5

/-- The low and high periods of payload bits, as the PulseWidths that end them: for each bit a rising and a falling event. -/
def pulseEvents : List (Word × Word) → List EventStmt
  | [] => []
  | (low, high) :: rest => .rise low :: .fall high :: pulseEvents rest

/-- The temperature field of a reading: `m = t` if `t >= 0`, else `m = 0x8000 | (-t)` (R169). -/
def encodeTemperature (t : Half) : Half := if t.getLsbD 15 then 0x8000#16 ||| -t else t

/-- The frame of a reading (R169). -/
def readingFrame (h t : Half) : List EventStmt :=
  let m := encodeTemperature t
  let b1 : Byte := h.extractLsb' 8 8
  let b2 : Byte := h.extractLsb' 0 8
  let b3 : Byte := m.extractLsb' 8 8
  let b4 : Byte := m.extractLsb' 0 8
  frameEvents b1 b2 b3 b4 (b1 + b2 + b3 + b4)

end Script

end Sys2Proof.Machine
end

