-- ==== Sys2Proof/Safety.lean ====
section
/-! DEFINITION. The terms claims use: the reachable-state invariant (spec 10_state R34), what the host and the line do
during a run, the handler of 43_capture_decoder R145 as its pseudocode has it, and the event-level abstraction
(40_timer_gpio R113). -/

namespace Sys2Proof.Machine

open Sys2Proof

/-! ### The reachable-state invariant -/

/-- The row of the state's `PHASE` in the table of R34. -/
def phaseRow (s : State) : Bool :=
  match s.phase with
  | .idle => !s.run && !s.ovfEn && !s.capEn && !s.drive && decide (s.bitcnt.toNat ≤ 41)
  | .driving => s.run && s.ovfEn && !s.capEn && s.drive && decide (s.bitcnt = bitcntStart)
      && decide ((preload s.cfg).toNat ≤ s.counter.toNat)
  | .listening => s.run && s.ovfEn && s.capEn && !s.drive && decide (s.bitcnt.toNat ≤ 41)
  | .done => !s.run && !s.ovfEn && !s.capEn && !s.drive && decide (s.bitcnt = 0#6) && decide (s.counter = 0#16)
  | .timedOut => !s.run && !s.ovfEn && !s.capEn && !s.drive && decide (s.bitcnt.toNat ≤ 41) && decide (s.counter = sentinel)

/-- What holds at the end of every cycle: the row of the phase, the buffer's canonical form, and the parameters' bounds. -/
def MachineInv (s : State) : Bool := phaseRow s && Memory.wf s.buf && Config.wf s.cfg

/-! ### What the host and the line do -/

/-- The host neither resets, nor stops, nor starts: `NOP`, `GET_RESULT`, `GET_RAW_DATA`, or a reserved code, which is `NOP`
(R74). -/
def CycleInput.passive (x : CycleInput) : Bool := !x.rst && decide (x.cmd ≠ 0b001#3) && decide (x.cmd ≠ 0b010#3)

/-- Every listed input is passive. The inputs that are not listed are (`idleInput`). -/
def State.hostPassive (s : State) : Bool := s.inputs.all CycleInput.passive

/-- The line level of an input of a cycle in which the block has released the line. -/
def CycleInput.releasedLevel (x : CycleInput) : Bool := x.line.lineIn false

/-- No cycle of the list shows the edge `e` on the released line, which was at `prev` before it. -/
def noEdge (e : Edge) : Bool → List CycleInput → Bool
  | _, [] => true
  | prev, x :: rest => !selectedEdge e prev x.releasedLevel && noEdge e x.releasedLevel rest

/-! ### The capture handler of R145 -/

/-- `CaptureEvent(pw)` as R145 writes it: "the tests `BITCNT < 40` and `BITCNT = 0` both read the value `BITCNT` had when the
handler was entered". -/
def captureHandler (pw : Word) (s : State) : State :=
  match s.edge with
  | .rising => { s with edge := .falling }
  | .falling =>
    let stored : Memory :=
      if s.bitcnt.toNat < 40 then
        s.buf.write (s.bitcnt.toNat / 8)
          ((s.buf.read (s.bitcnt.toNat / 8) <<< 1) ||| (if s.cfg.threshold < pw then 1#8 else 0#8))
      else s.buf
    if s.bitcnt = 0#6 then
      { s with buf := stored, ovfEn := false, capEn := false, run := false, phase := .done, edge := .rising }
    else { s with buf := stored, bitcnt := s.bitcnt - 1#6, edge := .rising }

/-! ### The event-level abstraction -/

/-- A free event of R113. -/
inductive FreeEvent : State → State → Prop where
  | capture (pw : Word) (s t : State) (run : s.run = true) (armed : s.capEn = true)
      (h : Script.applyCapture pw s = .next t) : FreeEvent s t
  | overflow (s t : State) (run : s.run = true) (armed : s.ovfEn = true)
      (h : Script.applyOverflow s = .next t) : FreeEvent s t

/-- `a` is `s` as the abstraction sees it: "while `RUN = 1` the value of `COUNTER` is not tracked", `LINE_PREV` is not tracked
at this level, and "when `RUN = 0` the abstraction and the block agree exactly, `COUNTER` included" (R113). -/
def Agrees (s a : State) : Prop :=
  a = { s with counter := a.counter, linePrev := a.linePrev } ∧ (s.run = false → a.counter = s.counter)

/-- A run of the abstraction, with the host's operations in their order (R113). There is no TICK in it: between the
operations, as often as it likes, a free event occurs, or `COUNTER`, whose value is not tracked while `RUN = 1`, takes any value;
"commands interleave freely with these steps". -/
inductive AbstractRun : List Instr → State → State → Prop where
  | stop (s : State) : AbstractRun [] s s
  | event {ops : List Instr} {s t u : State} (h : FreeEvent s t) (rest : AbstractRun ops t u) : AbstractRun ops s u
  | counter {ops : List Instr} {s u : State} (v : Word) (run : s.run = true)
      (rest : AbstractRun ops (s.loadCounter v) u) : AbstractRun ops s u
  | operation {ops : List Instr} {s t u : State} (w : BitVec 4) (h : exec (decodeCyc w) s = .next t)
      (rest : AbstractRun ops t u) : AbstractRun (decodeCyc w :: ops) s u

/-- What the abstraction may do where the block has a cycle: a run with the one operation of the cycle's CYC word, and the
bookkeeping of a cycle around it (logs 5, 6). -/
def AbstractCycle (s t : State) : Prop :=
  ∃ u, AbstractRun [decodeCyc s.fetchWord] s.clearResponse u ∧ t = u.endCycle

/-- `n` cycles of the abstraction. -/
def AbstractCycles : Nat → State → State → Prop
  | 0, s, t => t = s
  | n + 1, s, t => ∃ u, AbstractCycle s u ∧ AbstractCycles n u t

end Sys2Proof.Machine
end

