-- ==== Sys2Proof/Certificates/Slice0/Obligations.lean ====
section
/-! DEFINITION. What is to be proved of the model, from the numbered rules of the spec. -/

open Sys2Proof Sys2Proof.Machine

/-! ### Reset -/

/-- R231, R232: RESET gives the control state its reset values and the datapath the open ones; after it no event can occur
and INIT changes nothing. -/
def Obligations.ResetTakesTheResetState : Prop :=
  ∀ s : State, ∃ t, exec .reset s = .next t ∧
    t.run = false ∧ t.ovfEn = false ∧ t.capEn = false ∧ t.edge = .falling ∧ t.drive = false ∧ t.ctrl = 0b00000#5 ∧
    t.phase = .idle ∧ t.phase.code = 0#3 ∧ t.bitcnt = 41#6 ∧ t.linePrev = true ∧
    t.counter = s.cfg.resetCounter ∧ t.buf.read 0 = s.cfg.resetBuf.b0 ∧ t.buf.read 1 = s.cfg.resetBuf.b1 ∧
    t.buf.read 2 = s.cfg.resetBuf.b2 ∧ t.buf.read 3 = s.cfg.resetBuf.b3 ∧ t.buf.read 4 = s.cfg.resetBuf.b4 ∧
    t.tempOut = s.cfg.resetTemp ∧ t.rhOut = s.cfg.resetRh ∧ t.resp = none ∧ t.cfg = s.cfg ∧ t.inputs = s.inputs ∧
    (∀ l, exec (.tick l) t = .next { t with linePrev := l }) ∧ exec .init t = .next t

/-- R34, R231: the machine after reset is in the reset control state and meets the invariant, and RESET leads to it from
any state whose parameters are in their bounds. The datapath values of `State.reset` are the model's choice (log 3) and
nothing is said of them. -/
def Obligations.ResetStateMeetsTheInvariant : Prop :=
  MachineInv State.reset = true ∧ State.reset.ctrl = 0b00000#5 ∧ State.reset.phase = .idle ∧ State.reset.bitcnt = 41#6 ∧
    State.reset.linePrev = true ∧ State.reset.resp = none ∧
    ∀ s t, Config.wf s.cfg = true → exec .reset s = .next t → MachineInv t = true

/-! ### The cycle -/

/-- R71, R72, R110: a cycle whose word decodes to `i` is `exec` of RESET alone, or of TICK and then `i`; around it the step
clears the response ports and uses up the cycle's input. -/
def Obligations.StepRunsTheDecodedOperation : Prop :=
  ∀ (s : State) (i : Instr), decode (.cyc s.fetchWord) = .ok i → i.wellFormed = true →
    (i = .reset → step s = andThen (exec i { s with resp := none }) fun t => .next { t with inputs := t.inputs.tail }) ∧
    (i ≠ .reset → step s = andThen (exec (.tick s.lineIn) { s with resp := none }) fun t =>
      andThen (exec i t) fun u => .next { u with inputs := u.inputs.tail })

/-- R110: the step of one cycle, by its inputs. -/
def Obligations.CycleRunsResetAloneOrTickThenCommand : Prop :=
  ∀ s : State, ∃ t, step s = .next t ∧
    (s.input.rst = true → t.resp = none ∧ ∃ u, exec .reset s = .next u ∧ t = { u with inputs := s.inputs.tail }) ∧
    (s.input.rst = false → ∃ u v, exec (.tick s.lineIn) { s with resp := none } = .next u ∧ u.resp = none ∧
      t = { v with inputs := v.inputs.tail } ∧
      (s.input.cmd = 0b000#3 → v = u) ∧ (s.input.cmd = 0b001#3 → exec .init u = .next v) ∧
      (s.input.cmd = 0b010#3 → exec .triggerRead u = .next v) ∧ (s.input.cmd = 0b011#3 → exec .getResult u = .next v) ∧
      (s.input.cmd = 0b100#3 → exec .getRawData u = .next v) ∧
      (s.input.cmd = 0b101#3 ∨ s.input.cmd = 0b110#3 ∨ s.input.cmd = 0b111#3 → v = u))

/-- R201 (which the spec derives from its other rules): every cycle, every command, every TICK and every event completes, in
every state. -/
def Obligations.NoCommandAndNoCycleStops : Prop :=
  (∀ s : State, ∃ t, step s = .next t) ∧ (∀ (s : State) (c : BitVec 3), ∃ t, exec (decodeCommand c) s = .next t) ∧
    (∀ s : State, ∃ t, exec .reset s = .next t) ∧ (∀ (s : State) (l : Bool), ∃ t, exec (.tick l) s = .next t) ∧
    ∀ (k : EventKind) (pw : Word) (s : State), ∃ t, raiseEvent k pw s = .next t

/-- The parameters are never written, and a cycle uses up one input. -/
def Obligations.StepKeepsTheParametersAndUsesOneInput : Prop :=
  ∀ s t : State, step s = .next t → t.cfg = s.cfg ∧ t.inputs = s.inputs.tail

/-! ### TICK -/

/-- R103: the counter advances by one, wraps at `CMAX` as the overflow, and stands still while `RUN = 0`. -/
def Obligations.TickAdvancesTheCounter : Prop :=
  ∀ (s : State) (l : Bool),
    (s.run = false → exec (.tick l) s = .next { s with linePrev := l }) ∧
    (s.run = true → ¬ (s.capEn = true ∧ selectedEdge s.edge s.linePrev l = true) →
      (s.counter.toNat < 65535 → ∃ t, exec (.tick l) s = .next t ∧ t = { s with linePrev := l, counter := t.counter } ∧
        t.counter.toNat = s.counter.toNat + 1) ∧
      (s.counter.toNat = 65535 →
        (s.ovfEn = true → exec (.tick l) s = raiseEvent .overflow 0#16 { s with linePrev := l, counter := 0#16 }) ∧
        (s.ovfEn = false → exec (.tick l) s = .next { s with linePrev := l, counter := 0#16 })))

/-- R106, R112: the selected edge, with the capture unit enabled, raises the capture event with the counter's value as
PulseWidth and resets the counter, at `CMAX` too, where no overflow is raised; the counter is 0 after it. -/
def Obligations.CaptureEventTakesAndResetsTheCounter : Prop :=
  ∀ (s : State) (l : Bool), s.run = true → s.capEn = true →
    (s.edge = .rising ∧ s.linePrev = false ∧ l = true ∨ s.edge = .falling ∧ s.linePrev = true ∧ l = false) →
    exec (.tick l) s = raiseEvent .capture s.counter { s with linePrev := l, counter := 0#16 } ∧
    ∃ t, exec (.tick l) s = .next t ∧ t.counter = 0#16 ∧ t.edge = s.edge.toggled

/-- R105, R36: with the capture unit not acting, or an edge of the other polarity, the line's level has no effect but in
`LINE_PREV`: TICK does what it does on a line that stands still. -/
def Obligations.IgnoredEdgesLeaveNoTrace : Prop :=
  ∀ (s : State) (l : Bool),
    (s.run = false ∨ s.capEn = false ∨ (s.edge = .rising ∧ l = false) ∨ (s.edge = .falling ∧ l = true)) →
    ∃ t, exec (.tick s.linePrev) s = .next t ∧ exec (.tick l) s = .next { t with linePrev := l }

/-- R75, R76: the bits of the dispatch word, and the operation each kind of state selects when an event is raised. -/
def Obligations.EventRunsTheOperationItsWordSelects : Prop :=
  (∀ (k : EventKind) (s : State),
    ((eventWord k s).getLsbD 4 = true ↔ k = .capture) ∧ (eventWord k s).getLsbD 3 = s.capEn ∧
    ((eventWord k s).getLsbD 2 = true ↔ s.edge = .rising) ∧ ((eventWord k s).getLsbD 1 = true ↔ 40 ≤ s.bitcnt.toNat) ∧
    ((eventWord k s).getLsbD 0 = true ↔ s.bitcnt.toNat = 0)) ∧
  (∀ (k : EventKind) (pw : Word) (s : State) (i : Instr), decode (.evt (eventWord k s) pw) = .ok i →
    raiseEvent k pw s = exec i s) ∧
  ∀ (pw : Word) (s : State),
    (s.capEn = false → raiseEvent .overflow pw s = exec .ovfStartEnd s) ∧
    (s.capEn = true → raiseEvent .overflow pw s = exec .ovfTimeout s) ∧
    (s.capEn = true → s.edge = .rising → raiseEvent .capture pw s = exec (.capRise pw) s) ∧
    (s.capEn = true → s.edge = .falling → 40 ≤ s.bitcnt.toNat → raiseEvent .capture pw s = exec (.capFallAck pw) s) ∧
    (s.capEn = true → s.edge = .falling → 1 ≤ s.bitcnt.toNat → s.bitcnt.toNat ≤ 39 →
      raiseEvent .capture pw s = exec (.capFallBit pw) s) ∧
    (s.capEn = true → s.edge = .falling → s.bitcnt.toNat = 0 → raiseEvent .capture pw s = exec (.capFallLast pw) s)

/-- R145: the four capture operations together are the whole handler as its pseudocode has it. -/
def Obligations.CaptureEventIsTheWholeHandler : Prop :=
  ∀ (s : State) (pw : Word), s.capEn = true → raiseEvent .capture pw s = .next (captureHandler pw s)

/-- R151: every capture event inverts `EDGE`. -/
def Obligations.EveryCaptureEventInvertsTheEdge : Prop :=
  ∀ (s : State) (pw : Word), s.capEn = true →
    ∃ t, raiseEvent .capture pw s = .next t ∧ t.edge = s.edge.toggled ∧ t.edge ≠ s.edge

/-- R113: what TICK does is a free event of the event-level abstraction, or nothing that it sees. -/
def Obligations.FreeEventsCoverEveryTick : Prop :=
  ∀ (s a t : State) (l : Bool), Agrees s a → exec (.tick l) s = .next t →
    Agrees t a ∨ ∃ b, FreeEvent a b ∧ Agrees t b

/-! ### The commands -/

/-- R120, R123: TRIGGER_READ makes the same assignments whatever the state before. -/
def Obligations.TriggerReadStartsAConversion : Prop :=
  ∀ s : State, ∃ t, exec .triggerRead s = .next t ∧
    t = { s with bitcnt := 41#6, buf := t.buf, ovfEn := true, capEn := false, drive := true, counter := t.counter,
                 run := true, phase := .driving } ∧
    (∀ a, t.buf.read a = 0#8) ∧ t.counter.toNat = (2 ^ 16 - s.cfg.startTicks) % 2 ^ 16

/-- R180, R183: INIT writes its five registers and nothing else; twice is once; in `Idle` it changes nothing. -/
def Obligations.InitGivesTheRestState : Prop :=
  (∀ s : State, exec .init s = .next { s with ovfEn := false, capEn := false, run := false, drive := false, phase := .idle }) ∧
  (∀ s t : State, exec .init s = .next t → exec .init t = .next t) ∧
  ∀ s : State, MachineInv s = true → s.phase = .idle → exec .init s = .next s

/-- R181, R74, R182: NOP and the reserved codes change nothing. -/
def Obligations.NopAndReservedCodesChangeNothing : Prop :=
  ∀ s : State, exec .nop s = .next s ∧ exec .reserved5 s = .next s ∧ exec .reserved6 s = .next s ∧
    exec .reserved7 s = .next s

/-- R160: the four outcomes of GET_RESULT in the order of its tests, and the reading it writes on `ok`. -/
def Obligations.GetResultReportsTheFirstThatApplies : Prop :=
  ∀ s : State,
    (s.run = true → exec .getResult s = .next { s with resp := some (.result .ongoing) }) ∧
    (s.run = false → s.counter.toNat = 65535 → exec .getResult s = .next { s with resp := some (.result .timeout) }) ∧
    (s.run = false → s.counter.toNat ≠ 65535 →
      ((s.buf.read 4).toNat + (s.buf.read 3).toNat + (s.buf.read 2).toNat + (s.buf.read 1).toNat) % 256 ≠
        (s.buf.read 0).toNat → exec .getResult s = .next { s with resp := some (.result .crcError) }) ∧
    (s.run = false → s.counter.toNat ≠ 65535 →
      ((s.buf.read 4).toNat + (s.buf.read 3).toNat + (s.buf.read 2).toNat + (s.buf.read 1).toNat) % 256 =
        (s.buf.read 0).toNat →
      ∃ t, exec .getResult s = .next t ∧
        t = { s with tempOut := t.tempOut, rhOut := t.rhOut, resp := some (.result .ok) } ∧
        t.rhOut.toNat = 256 * (s.buf.read 4).toNat + (s.buf.read 3).toNat ∧
        t.tempOut.toInt = (if 128 ≤ (s.buf.read 2).toNat
          then -(256 * ((s.buf.read 2).toNat - 128 : Int) + (s.buf.read 1).toNat)
          else 256 * ((s.buf.read 2).toNat : Int) + (s.buf.read 1).toNat))

/-- R165, R166: the value of a sign-magnitude field, negative zero included. -/
def Obligations.SignMagnitudeFieldHasItsSignedValue : Prop :=
  (∀ m : Half, (signMagnitude m).toInt = if m.toNat < 32768 then (m.toNat : Int) else -((m.toNat : Int) - 32768)) ∧
    signMagnitude 0x8000#16 = 0#16 ∧ signMagnitude 0x0000#16 = 0#16

/-- R163: the checksum test, the law the source requires of a single corrupted cell, two corrupted cells that cancel, and the
all-zero buffer that passes. -/
def Obligations.ChecksumRejectsEverySingleCorruption : Prop :=
  (∀ s : State, s.run = false → s.counter.toNat ≠ 65535 →
    (resultCode s = .crcError ↔ ((s.buf.read 4).toNat + (s.buf.read 3).toNat + (s.buf.read 2).toNat +
      (s.buf.read 1).toNat) % 256 ≠ (s.buf.read 0).toNat)) ∧
  (∀ (s : State) (a : Nat) (v : Byte), Memory.wf s.buf = true → resultCode s = .ok → a < 5 → v ≠ s.buf.read a →
    resultCode { s with buf := s.buf.write a v } = .crcError) ∧
  (∃ (s : State) (a b : Nat) (v w : Byte), resultCode s = .ok ∧ a < 5 ∧ b < 5 ∧ a ≠ b ∧ v ≠ s.buf.read a ∧
    w ≠ s.buf.read b ∧ resultCode { s with buf := (s.buf.write a v).write b w } = .ok) ∧
  ∀ s : State, s.run = false → s.counter.toNat ≠ 65535 → (∀ a, s.buf.read a = 0#8) →
    ∃ t, exec .getResult s = .next t ∧ t.resp = some (.result .ok) ∧ t.tempOut = 0#16 ∧ t.rhOut = 0#16

/-- R162, R167: INIT after the end of a conversion changes no answer of GET_RESULT, the sentinel's `timeout` among them, and
GET_RESULT reads neither `BITCNT` nor `PHASE`. -/
def Obligations.InitAndTheLabelsDoNotChangeTheAnswer : Prop :=
  (∀ s t : State, s.run = false → exec .init s = .next t → resultCode t = resultCode s) ∧
  (∀ (s : State) (n : BitCount) (p : Phase), resultCode { s with bitcnt := n, phase := p } = resultCode s) ∧
  ∀ s : State, s.run = false → s.counter.toNat = 65535 → resultCode s = .timeout

/-- R59, R168: the two reading commands are idempotent, GET_RAW_DATA changes no state, and GET_RESULT changes only the reading,
and not even that unless it answers `ok`. -/
def Obligations.ReadingCommandsAreIdempotent : Prop :=
  ∀ s t : State,
    (exec .getRawData s = .next t → t = { s with resp := t.resp } ∧ exec .getRawData t = .next t) ∧
    (exec .getResult s = .next t →
      t = { s with tempOut := t.tempOut, rhOut := t.rhOut, resp := t.resp } ∧
      (t.resp = some (.result .ongoing) ∨ t.resp = some (.result .timeout) ∨ t.resp = some (.result .crcError) →
        t.tempOut = s.tempOut ∧ t.rhOut = s.rhOut) ∧
      exec .getResult t = .next t)

/-- R170: GET_RAW_DATA answers the five cells in receipt order and `BITCNT`, and writes no state. -/
def Obligations.GetRawDataIsASnapshot : Prop :=
  ∀ s : State, ∃ d, exec .getRawData s = .next { s with resp := some (.raw d s.bitcnt) } ∧
    d.extractLsb' 32 8 = s.buf.read 4 ∧ d.extractLsb' 24 8 = s.buf.read 3 ∧ d.extractLsb' 16 8 = s.buf.read 2 ∧
    d.extractLsb' 8 8 = s.buf.read 1 ∧ d.extractLsb' 0 8 = s.buf.read 0

/-! ### The event operations -/

/-- R131: the end of the request pulse. -/
def Obligations.OvfStartEndReleasesAndArms : Prop :=
  ∀ s : State, exec .ovfStartEnd s =
    .next { s with drive := false, counter := 0#16, edge := .falling, capEn := true, phase := .listening }

/-- R132: the silence timeout, and `timeout` as the next answer of GET_RESULT. -/
def Obligations.OvfTimeoutStopsAndMarks : Prop :=
  ∀ s : State, ∃ t, exec .ovfTimeout s = .next t ∧
    t = { s with ovfEn := false, capEn := false, run := false, counter := 0xFFFF#16, phase := .timedOut } ∧
    ∃ u, exec .getResult t = .next u ∧ u.resp = some (.result .timeout)

/-- R141: a rising edge only flips the polarity; its PulseWidth is ignored. -/
def Obligations.CapRiseOnlyFlipsTheEdge : Prop :=
  ∀ (s : State) (pw : Word), exec (.capRise pw) s = .next { s with edge := .falling }

/-- R142: within the acknowledgment phase `BITCNT` steps and no bit is stored; the PulseWidth is ignored. -/
def Obligations.CapFallAckOnlyCounts : Prop :=
  ∀ (s : State) (pw : Word), 40 ≤ s.bitcnt.toNat → ∃ t, exec (.capFallAck pw) s = .next t ∧
    t = { s with bitcnt := t.bitcnt, edge := .rising } ∧ t.bitcnt.toNat = s.bitcnt.toNat - 1

/-- R143, R147, R149: a bit enters the cell `BITCNT div 8`, every other cell reads as before, and `BITCNT` steps. -/
def Obligations.CapFallBitStoresOneBit : Prop :=
  ∀ (s : State) (pw : Word), Memory.wf s.buf = true → 1 ≤ s.bitcnt.toNat → s.bitcnt.toNat ≤ 39 →
    ∃ t, exec (.capFallBit pw) s = .next t ∧
      t = { s with buf := t.buf, bitcnt := t.bitcnt, edge := .rising } ∧ t.bitcnt.toNat = s.bitcnt.toNat - 1 ∧
      (t.buf.read (s.bitcnt.toNat / 8)).toNat =
        2 * (s.buf.read (s.bitcnt.toNat / 8)).toNat % 256 + (if s.cfg.threshold.toNat < pw.toNat then 1 else 0) ∧
      ∀ a, a ≠ s.bitcnt.toNat / 8 → t.buf.read a = s.buf.read a

/-- R144: the fortieth bit enters cell 0, every other cell reads as before, and the conversion ends in `Done`; with the TICK
that raises it the counter is left at 0, so the next GET_RESULT goes on to the checksum. -/
def Obligations.CapFallLastEndsTheFrame : Prop :=
  ∀ (s : State) (pw : Word), Memory.wf s.buf = true →
    ∃ t, exec (.capFallLast pw) s = .next t ∧
      t = { s with buf := t.buf, ovfEn := false, capEn := false, run := false, phase := .done, edge := .rising } ∧
      (t.buf.read 0).toNat = 2 * (s.buf.read 0).toNat % 256 + (if s.cfg.threshold.toNat < pw.toNat then 1 else 0) ∧
      (∀ a, a ≠ 0 → t.buf.read a = s.buf.read a) ∧
      (s.run = true → s.capEn = true → s.edge = .falling → s.linePrev = true → s.bitcnt.toNat = 0 →
        ∃ u, exec (.tick false) s = .next u ∧ u.phase = .done ∧ u.run = false ∧ u.counter = 0#16 ∧
          (resultCode u = .ok ∨ resultCode u = .crcError))

/-- R57, R152: CAP_FALL_BIT with `BITCNT` outside 1 to 39, which would reach a cell that does not exist or borrow from
`BITCNT`, and CAP_FALL_ACK with `BITCNT = 0`, which would borrow, stop by name (the model's choice, log 11). -/
def Obligations.CapFallBitStopsOffItsRangeAndCapFallAckAtZero : Prop :=
  ∀ (s : State) (pw : Word),
    (40 ≤ s.bitcnt.toNat → exec (.capFallBit pw) s = .fault (.noSuchCell (s.bitcnt.toNat / 8))) ∧
    (s.bitcnt.toNat = 0 → exec (.capFallBit pw) s = .fault .bitCounterBorrow) ∧
    (s.bitcnt.toNat = 0 → exec (.capFallAck pw) s = .fault .bitCounterBorrow)

/-- R148: the classifier is unsigned and strict: at the threshold and one below it the bit is 0, one above it 1, and with the
default threshold 799 and 800 give 0 and 801 gives 1. -/
def Obligations.ClassifierIsStrictAtTheThreshold : Prop :=
  (∀ (c : Config) (pw : Word), classify c pw = true ↔ c.threshold.toNat < pw.toNat) ∧
  (∀ c : Config, classify c c.threshold = false) ∧
  (∀ (c : Config) (pw : Word), pw.toNat + 1 = c.threshold.toNat → classify c pw = false) ∧
  (∀ (c : Config) (pw : Word), pw.toNat = c.threshold.toNat + 1 → classify c pw = true) ∧
  ∀ c : Config, c.threshold = 800#16 → classify c 799#16 = false ∧ classify c 800#16 = false ∧ classify c 801#16 = true

/-! ### Frames -/

/-- R51: the operations that store nothing leave every cell of the buffer, `LINE_PREV`, the parameters and the inputs as they
were; the event operations and INIT also leave the reading and the response ports. -/
def Obligations.NonStoringOperationsKeepTheBuffer : Prop :=
  ∀ (i : Instr) (s t : State),
    (i = .nop ∨ i = .init ∨ i = .getResult ∨ i = .getRawData ∨ i = .reserved5 ∨ i = .reserved6 ∨ i = .reserved7 ∨
      i = .ovfStartEnd ∨ i = .ovfTimeout ∨ (∃ pw, i = .capRise pw) ∨ ∃ pw, i = .capFallAck pw) →
    exec i s = .next t →
    (∀ a, t.buf.read a = s.buf.read a) ∧ t.linePrev = s.linePrev ∧ t.cfg = s.cfg ∧ t.inputs = s.inputs ∧
    (i ≠ .getResult → t.tempOut = s.tempOut ∧ t.rhOut = s.rhOut) ∧
    (i ≠ .getResult → i ≠ .getRawData → t.resp = s.resp)

/-- R143, R144: a capture that stores a bit stores to one cell, whose index is computed from `BITCNT` as it was on entry;
every other cell reads as before, and so do the registers it does not name. -/
def Obligations.StoringCapturesWriteOneCell : Prop :=
  ∀ (s t : State) (pw : Word), Memory.wf s.buf = true →
    (exec (.capFallBit pw) s = .next t →
      (∀ a, a ≠ byteIndex s.bitcnt → t.buf.read a = s.buf.read a) ∧ t.run = s.run ∧ t.ovfEn = s.ovfEn ∧
      t.capEn = s.capEn ∧ t.phase = s.phase ∧ t.counter = s.counter ∧ t.drive = s.drive ∧ t.linePrev = s.linePrev ∧
      t.tempOut = s.tempOut ∧ t.rhOut = s.rhOut ∧ t.cfg = s.cfg ∧ t.inputs = s.inputs ∧ t.resp = s.resp) ∧
    (exec (.capFallLast pw) s = .next t →
      (∀ a, a ≠ 0 → t.buf.read a = s.buf.read a) ∧ t.bitcnt = s.bitcnt ∧ t.counter = s.counter ∧ t.drive = s.drive ∧
      t.linePrev = s.linePrev ∧ t.tempOut = s.tempOut ∧ t.rhOut = s.rhOut ∧ t.cfg = s.cfg ∧ t.inputs = s.inputs ∧
      t.resp = s.resp)

/-- R220: TICK writes no reading, no response, no parameter and no input; of the buffer it changes at most the one cell that
a falling capture past the acknowledgment phase stores to; and `LINE_PREV` takes the level in every TICK (R104). -/
def Obligations.TickWritesAtMostOneCell : Prop :=
  ∀ (s t : State) (l : Bool), Memory.wf s.buf = true → exec (.tick l) s = .next t →
    t.tempOut = s.tempOut ∧ t.rhOut = s.rhOut ∧ t.cfg = s.cfg ∧ t.inputs = s.inputs ∧ t.resp = s.resp ∧ t.linePrev = l ∧
    (∀ a, a ≠ byteIndex s.bitcnt → t.buf.read a = s.buf.read a) ∧
    (¬ (s.run = true ∧ s.capEn = true ∧ s.edge = .falling ∧ s.linePrev = true ∧ l = false ∧ s.bitcnt.toNat < 40) →
      ∀ a, t.buf.read a = s.buf.read a)

/-- R30, R168: in a cycle, `TEMP_OUT` and `RH_OUT` change only by a GET_RESULT that answers `ok`, or by RESET. -/
def Obligations.OnlyOkOrResetChangesTheReading : Prop :=
  ∀ s t : State, step s = .next t → (t.tempOut ≠ s.tempOut ∨ t.rhOut ≠ s.rhOut) →
    s.input.rst = true ∨ (s.input.cmd = 0b011#3 ∧ t.resp = some (.result .ok))

/-- R38, R78, R79, R31: the ports show the registers; the response ports show the answer GET_RESULT or GET_RAW_DATA gives on
the state TICK leaves, in the cycle that runs it, and nothing in any other cycle; and the numbers of the two tables. -/
def Obligations.PortsShowRegistersAndTheCyclesResponse : Prop :=
  (∀ s t : State, step s = .next t →
    (t.outputs.driveLow = t.drive ∧ t.outputs.phase = t.phase.code ∧ t.outputs.ctrl = t.ctrl ∧
      t.outputs.tempOut = t.tempOut ∧ t.outputs.rhOut = t.rhOut) ∧
    (s.input.rst = true ∨ (s.input.cmd ≠ 0b011#3 ∧ s.input.cmd ≠ 0b100#3) →
      t.outputs.respCode = none ∧ t.outputs.respRaw = none ∧ t.outputs.respBitcnt = none) ∧
    (s.input.rst = false → s.input.cmd = 0b011#3 → ∃ u, exec (.tick s.lineIn) { s with resp := none } = .next u ∧
      t.outputs.respCode = some (resultCode u).code ∧ t.outputs.respRaw = none ∧ t.outputs.respBitcnt = none) ∧
    (s.input.rst = false → s.input.cmd = 0b100#3 → ∃ u d, exec (.tick s.lineIn) { s with resp := none } = .next u ∧
      t.outputs.respCode = none ∧ t.outputs.respRaw = some d ∧ t.outputs.respBitcnt = some u.bitcnt ∧
      ∀ i, i < 5 → d.extractLsb' (8 * i) 8 = u.buf.read i)) ∧
  (∀ (s : State) (c : ResultCode), s.resp = some (.result c) →
    s.outputs.respCode = some c.code ∧ s.outputs.respRaw = none ∧ s.outputs.respBitcnt = none) ∧
  (∀ (s : State) (d : Payload) (n : BitCount), s.resp = some (.raw d n) →
    s.outputs.respCode = none ∧ s.outputs.respRaw = some d ∧ s.outputs.respBitcnt = some n) ∧
  (ResultCode.ok.code = 0b00#2 ∧ ResultCode.ongoing.code = 0b01#2 ∧ ResultCode.crcError.code = 0b10#2 ∧
    ResultCode.timeout.code = 0b11#2) ∧
  Phase.idle.code = 0#3 ∧ Phase.driving.code = 1#3 ∧ Phase.listening.code = 2#3 ∧ Phase.done.code = 3#3 ∧
  Phase.timedOut.code = 4#3

/-- R27: the layout of `CTRL`. -/
def Obligations.CtrlHasItsLayout : Prop :=
  ∀ s : State, s.ctrl.getLsbD 0 = s.run ∧ s.ctrl.getLsbD 1 = s.ovfEn ∧ s.ctrl.getLsbD 2 = s.capEn ∧
    (s.ctrl.getLsbD 3 = true ↔ s.edge = .rising) ∧ s.ctrl.getLsbD 4 = s.drive

/-! ### Encodings -/

/-- R71, R73, R74, R76, R77: words written out from the spec's tables decode to what they stand for, with the bits the
selection does not read at either value, and the words that cannot occur are rejected. -/
def Obligations.TableWordsDecodeAsTheSpecSays : Prop :=
  (∀ c : BitVec 3, decode (.cyc (1#1 ++ c)) = .ok .reset) ∧
  decode (.cyc 0b0000#4) = .ok .nop ∧ decode (.cyc 0b0001#4) = .ok .init ∧ decode (.cyc 0b0010#4) = .ok .triggerRead ∧
  decode (.cyc 0b0011#4) = .ok .getResult ∧ decode (.cyc 0b0100#4) = .ok .getRawData ∧
  decode (.cyc 0b0101#4) = .ok .reserved5 ∧ decode (.cyc 0b0110#4) = .ok .reserved6 ∧
  decode (.cyc 0b0111#4) = .ok .reserved7 ∧
  ∀ pw : Word, (∀ x : BitVec 3, decode (.evt (0b00#2 ++ x) pw) = .ok .ovfStartEnd) ∧
    (∀ x : BitVec 3, decode (.evt (0b01#2 ++ x) pw) = .ok .ovfTimeout) ∧
    (∀ x : BitVec 2, decode (.evt (0b111#3 ++ x) pw) = .ok (.capRise pw)) ∧
    decode (.evt 0b11010#5 pw) = .ok (.capFallAck pw) ∧ decode (.evt 0b11000#5 pw) = .ok (.capFallBit pw) ∧
    decode (.evt 0b11001#5 pw) = .ok (.capFallLast pw) ∧
    (∀ x : BitVec 3, decode (.evt (0b10#2 ++ x) pw) = .error .captureNotArmed) ∧
    decode (.evt 0b11011#5 pw) = .error .bitCounterContradiction

/-- R73, R76, R90: decoder and encoder agree. For every operation that a word selects, with every operand, decoding its word
gives it back; a word that decodes to an operation fits that operation's row of the opcode table, as the word the encoder
writes does; and a word that fits a row decodes to nothing but that row, so no two rows share a word, TICK's row apart, which
no word selects on its own (R72). -/
def Obligations.DecodeAndEncodeAgree : Prop :=
  (∀ i : Instr, i.wellFormed = true → ∃ w, encode i = some w ∧ decode w = .ok i) ∧
  (∀ (w : OpWord) (i : Instr), decode w = .ok i → i.wellFormed = true ∧ i.row.fits w = true ∧
    ∃ v, encode i = some v ∧ i.row.fits v = true) ∧
  ∀ (w : OpWord) (i j : Instr), i.wellFormed = true → i.row.fits w = true → decode w = .ok j → j.row = i.row

/-! ### Whole-machine rules -/

/-- R34: every step keeps the invariant: the row of the phase, the buffer's canonical form, the parameters' bounds. -/
def Obligations.EveryStepKeepsTheInvariant : Prop :=
  ∀ s t : State, MachineInv s = true → step s = .next t → MachineInv t = true

/-- R34: from RESET, under any inputs, the state meets the row of its phase at the end of every cycle, with the consequences
the rule lists. -/
def Obligations.ReachableStatesMeetTheRowOfTheirPhase : Prop :=
  ∀ (s r t : State) (n : Nat), Config.wf s.cfg = true → exec .reset s = .next r → cycles n r = .next t →
    phaseRow t = true ∧ (t.capEn = true → t.run = true ∧ t.ovfEn = true) ∧ (t.run = true → t.ovfEn = true) ∧
    (t.drive = true → t.phase = .driving) ∧ t.bitcnt.toNat ≤ 41

/-- The buffer's canonical form is kept by every step, so that equal buffers stay equal data. -/
def Obligations.EveryStepKeepsTheBufferCanonical : Prop :=
  ∀ s t : State, Memory.wf s.buf = true → step s = .next t → Memory.wf t.buf = true

/-- R185: the table of phase transitions, for TICK with its events and for each command. -/
def Obligations.PhaseMovesAsTheTransitionTable : Prop :=
  (∀ (s t : State) (l : Bool), MachineInv s = true → exec (.tick l) s = .next t →
    (s.phase = .idle ∨ s.phase = .done ∨ s.phase = .timedOut → t.phase = s.phase) ∧
    (s.phase = .driving → t.phase = if s.counter.toNat = 65535 then .listening else .driving) ∧
    (s.phase = .listening → t.phase =
      if selectedEdge s.edge s.linePrev l = true then
        (if s.edge = .falling ∧ s.bitcnt.toNat = 0 then .done else .listening)
      else if s.counter.toNat = 65535 then .timedOut else .listening)) ∧
  ∀ s t : State,
    (exec .triggerRead s = .next t → t.phase = .driving) ∧ (exec .init s = .next t → t.phase = .idle) ∧
    (exec .reset s = .next t → t.phase = .idle) ∧
    (exec .nop s = .next t ∨ exec .getResult s = .next t ∨ exec .getRawData s = .next t ∨ exec .reserved5 s = .next t ∨
      exec .reserved6 s = .next t ∨ exec .reserved7 s = .next t → t.phase = s.phase)

/-- R32: `PHASE` is a label: another value of it changes nothing of a step but `PHASE`. -/
def Obligations.PhaseIsOnlyALabel : Prop :=
  ∀ (s t : State) (p : Phase), step s = .next t → ∃ q, step { s with phase := p } = .next { t with phase := q }

/-- R124: TRIGGER_READ in a cycle leaves the same registers whatever event operation ran before it in that cycle. -/
def Obligations.TriggerReadOverridesTheCyclesEvent : Prop :=
  ∀ s t : State, s.input.rst = false → s.input.cmd = 0b010#3 → step s = .next t →
    t.bitcnt = 41#6 ∧ (∀ a, t.buf.read a = 0#8) ∧ t.ovfEn = true ∧ t.capEn = false ∧ t.drive = true ∧ t.run = true ∧
    t.phase = .driving ∧ t.counter = preload s.cfg ∧ t.tempOut = s.tempOut ∧ t.rhOut = s.rhOut

/-- R62: once GET_RESULT has answered anything but `ongoing`, nothing writes the decoder data until the next TRIGGER_READ
(or RESET), and every later answer is the same. -/
def Obligations.AFinishedConversionStaysReadable : Prop :=
  ∀ (s u : State) (c : ResultCode), MachineInv s = true → exec .getResult s = .next u → u.resp = some (.result c) →
    c ≠ .ongoing → (∀ x ∈ u.inputs, x.rst = false ∧ x.cmd ≠ 0b010#3) →
    u.run = false ∧ u.ovfEn = false ∧ u.capEn = false ∧
    ∀ (n : Nat) (t : State), cycles n u = .next t →
      t.run = false ∧ t.buf = u.buf ∧ t.bitcnt = u.bitcnt ∧ t.counter = u.counter ∧
      (∃ v, exec .getResult t = .next v ∧ v.resp = some (.result c)) ∧
      ∃ v, exec .getRawData t = .next v ∧ v.resp = some (.raw (payloadWord u.buf) u.bitcnt)

/-! ### Timing and termination -/

/-- R108 (d), R121: the request pulse. While the host is passive, the line is driven for exactly `START_TICKS` cycles, nothing
on the line has any effect on the decoder data, GET_RESULT answers `ongoing`, and the cycle after that ends the pulse. -/
def Obligations.RequestPulseLastsStartTicksCycles : Prop :=
  ∀ s t : State, Config.wf s.cfg = true → exec .triggerRead s = .next t → t.hostPassive = true →
    (∀ n, n < s.cfg.startTicks → ∃ u, cycles n t = .next u ∧ u.drive = true ∧ u.phase = .driving ∧ u.run = true ∧
      u.capEn = false ∧ u.counter.toNat = 65536 - s.cfg.startTicks + n ∧ u.bitcnt = 41#6 ∧ u.buf = t.buf ∧
      ∃ v, exec .getResult u = .next v ∧ v.resp = some (.result .ongoing)) ∧
    ∃ u, cycles s.cfg.startTicks t = .next u ∧ u.drive = false ∧ u.phase = .listening ∧ u.run = true ∧ u.ovfEn = true ∧
      u.capEn = true ∧ u.edge = .falling ∧ u.counter = 0#16 ∧ u.bitcnt = 41#6 ∧ u.buf = t.buf

/-- R108 (a): if the counter is set to 0 and `n` cycles pass without a selected edge, then a selected edge in the next cycle
is captured with PulseWidth `n`, up to `n = CMAX`, where the capture wins over the wrap. -/
def Obligations.PulseWidthCountsTheCyclesBetween : Prop :=
  ∀ (s : State) (n : Nat), s.run = true → s.capEn = true → s.drive = false → s.counter = 0#16 → s.hostPassive = true →
    n < 65536 → n ≤ s.inputs.length → noEdge s.edge s.linePrev (s.inputs.take n) = true →
    ∃ u, cycles n s = .next u ∧ u.run = true ∧ u.edge = s.edge ∧ u.bitcnt = s.bitcnt ∧ u.buf = s.buf ∧
      u.counter.toNat = n ∧
      (selectedEdge u.edge u.linePrev u.lineIn = true → exec (.tick u.lineIn) u =
        raiseEvent .capture (BitVec.ofNat 16 n) { u with linePrev := u.lineIn, counter := 0#16 })

/-- R108 (b), R133: the silence window is `2^W` cycles from the cycle that set the counter to 0: one cycle earlier the
conversion still runs, and at its end it has timed out, with the decoder data kept. -/
def Obligations.SilenceWindowIsOneCounterPeriod : Prop :=
  ∀ s : State, s.run = true → s.ovfEn = true → s.capEn = true → s.drive = false → s.counter = 0#16 →
    s.hostPassive = true → 65536 ≤ s.inputs.length → noEdge s.edge s.linePrev (s.inputs.take 65536) = true →
    (∃ u, cycles 65535 s = .next u ∧ u.run = true ∧ u.counter = 0xFFFF#16 ∧ u.phase = s.phase) ∧
    ∃ u, cycles 65536 s = .next u ∧ u.run = false ∧ u.ovfEn = false ∧ u.capEn = false ∧ u.phase = .timedOut ∧
      u.counter = 0xFFFF#16 ∧ u.bitcnt = s.bitcnt ∧ u.buf = s.buf ∧
      ∃ v, exec .getResult u = .next v ∧ v.resp = some (.result .timeout)

/-- R253: a conversion that the host leaves alone is over within `START_TICKS + 83 x 2^W` cycles, whatever the line does. -/
def Obligations.EveryConversionEndsInBoundedTime : Prop :=
  ∀ s t : State, Config.wf s.cfg = true → exec .triggerRead s = .next t → t.hostPassive = true →
    ∃ (n : Nat) (u : State), n ≤ s.cfg.startTicks + 83 * 2 ^ 16 ∧ cycles n t = .next u ∧ u.run = false

/-! ### Frames on the wire -/

/-- R55: the partly filled buffer. After TRIGGER_READ, the end of the pulse, the acknowledgment events and `n` payload bits, of
any pulse widths, each cell holds the bits of its byte received so far, first bit received highest, and zeros above them. -/
def Obligations.PartlyFilledBufferHoldsTheBitsSoFar : Prop :=
  ∀ (s t : State) (a b c : Word) (ps : List (Word × Word)), exec .triggerRead s = .next t → ps.length ≤ 40 →
    ∃ u, Script.apply (.ovf :: .fall a :: .rise b :: .fall c :: Script.pulseEvents ps) t = some u ∧
      (ps.length < 40 → u.phase = .listening ∧ u.bitcnt.toNat = 39 - ps.length) ∧
      (ps.length = 40 → u.phase = .done ∧ u.bitcnt.toNat = 0) ∧
      ∀ j k, j < 5 → k < 8 → (u.buf.read (4 - j)).getLsbD k =
        (decide (k < min 8 (ps.length - 8 * j)) &&
          classify s.cfg (ps.getD (8 * j + (min 8 (ps.length - 8 * j) - 1 - k)) (0#16, 0#16)).2)

/-- R54, R150: a frame whose forty high periods classify as the bits of `P`, most significant first, ends in `Done` with
`BUF[i] = P[8i+7 : 8i]`, and GET_RAW_DATA then answers `P` and 0. -/
def Obligations.CompleteFrameLeavesThePayloadInTheBuffer : Prop :=
  ∀ (s t : State) (a b c : Word) (ps : List (Word × Word)) (P : Payload), exec .triggerRead s = .next t →
    ps.length = 40 → (∀ k, k < 40 → classify s.cfg (ps.getD k (0#16, 0#16)).2 = P.getLsbD (39 - k)) →
    ∃ u, Script.apply (.ovf :: .fall a :: .rise b :: .fall c :: Script.pulseEvents ps) t = some u ∧
      u.phase = .done ∧ u.run = false ∧ u.counter = 0#16 ∧ (∀ i, i < 5 → u.buf.read i = P.extractLsb' (8 * i) 8) ∧
      ∃ v, exec .getRawData u = .next v ∧ v.resp = some (.raw P 0#6)

/-- R169: the round trip. For every humidity and every temperature but the one a sign-magnitude field cannot hold, the frame
of the reading, with the nominal pulse durations and any threshold between them, decodes to `ok` and the reading. -/
def Obligations.EveryReadingSurvivesTheRoundTrip : Prop :=
  ∀ (s : State) (h t : Half), t ≠ 0x8000#16 → 447 ≤ s.cfg.threshold.toNat → s.cfg.threshold.toNat < 1119 →
    ∃ u, Script.apply (.command 0b010#3 :: .ovf :: (Script.readingFrame h t ++ [.command 0b011#3])) s = some u ∧
      u.resp = some (.result .ok) ∧ u.rhOut = h ∧ u.tempOut = t ∧ u.phase = .done ∧ u.bitcnt = 0#6

/-! ### The event-level abstraction -/

/-- R113: the free events. Whenever `RUN = 1` and `CAP_EN = 1` a capture event may occur with any PulseWidth, whenever `RUN = 1`
and `OVF_EN = 1` an overflow event may occur, each on `COUNTER` set to 0, and no other free event does. -/
def Obligations.FreeEventsAreTheTwoEnabledEvents : Prop :=
  ∀ s t : State, FreeEvent s t ↔
    (s.run = true ∧ s.capEn = true ∧ ∃ pw, t = captureHandler pw { s with counter := 0#16 }) ∨
    (s.run = true ∧ s.ovfEn = true ∧ s.capEn = false ∧
      t = { s with drive := false, counter := 0#16, edge := .falling, capEn := true, phase := .listening }) ∨
    (s.run = true ∧ s.ovfEn = true ∧ s.capEn = true ∧
      t = { s with ovfEn := false, capEn := false, run := false, counter := 0xFFFF#16, phase := .timedOut })

/-- R113: the abstraction admits every run of the block and more. Whatever the block does in a cycle, under any input, RESET and an
INIT in mid-conversion included, the abstraction can do with the same operation, and so for any number of cycles; with
`RUN = 0` the two agree in all but `LINE_PREV`, `COUNTER` included; and some cycle of the abstraction is none of the block. -/
def Obligations.TheEventLevelAbstractionAdmitsEveryRun : Prop :=
  (∀ s a t : State, Agrees s a → step s = .next t → ∃ b, AbstractCycle a b ∧ Agrees t b) ∧
  (∀ (n : Nat) (s a t : State), Agrees s a → cycles n s = .next t → ∃ b, AbstractCycles n a b ∧ Agrees t b) ∧
  (∀ s a : State, Agrees s a → s.run = false → a = { s with linePrev := a.linePrev }) ∧
  ∃ s a b : State, MachineInv s = true ∧ Agrees s a ∧ AbstractCycle a b ∧ ∀ t, step s = .next t → ¬ Agrees t b

/-! ### The sensor on the line -/

/-- R87, R108 (d): where the sensor's behaviour begins. After a TRIGGER_READ in the first cycle and passive commands in the
others, the sensor waits that cycle and the `START_TICKS` cycles at whose start the line is driven, and begins in the cycle
after the one that runs OVF_START_END, whatever its behaviour is. It begins nowhere else: the cycle before its first one ran
OVF_START_END and left the line released. So a pulse that RESET or INIT cuts short does not begin it, and without a pulse it
waits. -/
def Obligations.TheSensorBeginsWhenTheStartPulseIsOver : Prop :=
  (∀ (s : State) (pulls : List Bool) (ws : List (BitVec 4)), Config.wf s.cfg = true → s.inputs = [] →
    (∀ w ∈ ws, w = 0b0000#4 ∨ w = 0b0011#4 ∨ w = 0b0100#4 ∨ w = 0b0101#4 ∨ w = 0b0110#4 ∨ w = 0b0111#4) →
    ∃ b, Script.benchRun pulls (0b0010#4 :: ws) ⟨.waiting, s⟩ = some b ∧
      cycles (ws.length + 1) { s with inputs := Script.schedule (s.cfg.startTicks + 1) pulls (0b0010#4 :: ws) } =
        .next b.state ∧
      (ws.length < s.cfg.startTicks → b.sensor = .waiting ∧ b.state.drive = true) ∧
      (ws.length = s.cfg.startTicks → b.state.phase = .listening ∧ b.state.drive = false) ∧
      (s.cfg.startTicks ≤ ws.length → b.sensor = .playing (pulls.drop (ws.length - s.cfg.startTicks)))) ∧
  (∀ (pulls : List Bool) (w : BitVec 4) (s : State) (c : Script.Bench), Script.benchCycle pulls w ⟨.waiting, s⟩ = some c →
    c.sensor = .waiting ∨
    (c.sensor = .playing pulls ∧ c.state.drive = false ∧ w.getLsbD 3 = false ∧
      ∀ l, exec (.tick l) s = exec .ovfStartEnd { s with linePrev := l, counter := 0#16 })) ∧
  (∀ (s : State) (pulls : List Bool) (c : BitVec 3) (ws : List (BitVec 4)), (∀ w ∈ ws, w ≠ 0b0010#4) →
    ∃ b, Script.benchRun pulls ((1#1 ++ c) :: ws) ⟨.waiting, s⟩ = some b ∧ b.sensor = .waiting) ∧
  (∀ (s : State) (pulls : List Bool) (ws : List (BitVec 4)), s.counter.toNat ≠ 65535 → (∀ w ∈ ws, w ≠ 0b0010#4) →
    ∃ b, Script.benchRun pulls (0b0001#4 :: ws) ⟨.waiting, s⟩ = some b ∧ b.sensor = .waiting) ∧
  ∀ (s : State) (pulls : List Bool) (ws : List (BitVec 4)), (s.run = false ∨ s.capEn = true) → (∀ w ∈ ws, w ≠ 0b0010#4) →
    ∃ b, Script.benchRun pulls ws ⟨.waiting, s⟩ = some b ∧ b.sensor = .waiting
end

