-- ==== Sys2Proof/Laws/Memory.lean ====
section
/-! SUPPORT. The laws of the buffer: a read after a write, the canonical form, and that equal readings are equal buffers. -/

namespace Sys2Proof.Machine

open Sys2Proof

@[simp] theorem Memory.read_nil (a : Nat) : Memory.read [] a = 0#8 := rfl

theorem Memory.wfFrom_cons (lo k : Nat) (x : Byte) (rest : Memory) :
    Memory.wfFrom lo ((k, x) :: rest) = true ↔
      lo ≤ k ∧ k < bufCells ∧ x ≠ Memory.unlisted ∧ Memory.wfFrom (k + 1) rest = true := by
  simp only [Memory.wfFrom, Bool.and_eq_true, decide_eq_true_eq, and_assoc]

@[simp] theorem Memory.read_cons (k : Nat) (x : Byte) (rest : Memory) (a : Nat) :
    Memory.read ((k, x) :: rest) a = if k = a then x else Memory.read rest a := rfl

/-- A cell below every listed one is unlisted. -/
theorem Memory.read_below (m : Memory) : ∀ (lo a : Nat), Memory.wfFrom lo m = true → a < lo → m.read a = Memory.unlisted := by
  induction m with
  | nil => intro _ _ _ _; rfl
  | cons c rest ih =>
    obtain ⟨k, x⟩ := c
    intro lo a h ha
    obtain ⟨hk, -, -, hr⟩ := (Memory.wfFrom_cons lo k x rest).mp h
    rw [Memory.read_cons, if_neg (by omega)]
    exact ih (k + 1) a hr (by omega)

/-- A read of the written cell gives the value; a read of another cell gives what it gave before. -/
theorem Memory.read_write_of_from (m : Memory) (a b : Nat) (v : Byte) :
    ∀ lo, Memory.wfFrom lo m = true → (m.write a v).read b = if b = a then v else m.read b := by
  induction m with
  | nil =>
    intro _ _
    by_cases hv : v = Memory.unlisted
    · rw [Memory.write, if_pos hv, hv]
      exact (ite_self (Memory.unlisted)).symm
    · rw [Memory.write, if_neg hv, Memory.read_cons]
      simp only [eq_comm]
  | cons c rest ih =>
    obtain ⟨k, x⟩ := c
    intro lo h
    obtain ⟨-, -, -, hr⟩ := (Memory.wfFrom_cons lo k x rest).mp h
    have low : ∀ d, d ≤ k → Memory.read rest d = Memory.unlisted := fun d hd =>
      Memory.read_below rest (k + 1) d hr (by omega)
    rw [Memory.write]
    by_cases hlt : a < k
    · rw [if_pos hlt]
      by_cases hv : v = Memory.unlisted
      · rw [if_pos hv]
        by_cases hb : b = a
        · rw [if_pos hb, Memory.read_cons, if_neg (by omega), low b (by omega), hv]
        · rw [if_neg hb]
      · rw [if_neg hv, Memory.read_cons]
        by_cases hb : b = a
        · rw [if_pos hb, if_pos hb.symm]
        · rw [if_neg hb, if_neg (Ne.symm hb)]
    · rw [if_neg hlt]
      by_cases hk : a = k
      · subst hk
        rw [if_pos rfl]
        by_cases hv : v = Memory.unlisted
        · rw [if_pos hv]
          by_cases hb : b = a
          · rw [if_pos hb, hb, low a (Nat.le_refl a), hv]
          · rw [if_neg hb, Memory.read_cons, if_neg (Ne.symm hb)]
        · rw [if_neg hv, Memory.read_cons, Memory.read_cons]
          by_cases hb : b = a
          · rw [if_pos hb, if_pos hb.symm]
          · rw [if_neg hb, if_neg (Ne.symm hb), if_neg (Ne.symm hb)]
      · rw [if_neg hk, Memory.read_cons, Memory.read_cons, ih (k + 1) hr]
        by_cases hb : k = b
        · rw [if_pos hb, if_pos hb, if_neg (by omega)]
        · rw [if_neg hb, if_neg hb]

/-- The law of reading after writing, for a canonical buffer. -/
theorem Memory.read_write (m : Memory) (a b : Nat) (v : Byte) (h : m.wf = true) :
    (m.write a v).read b = if b = a then v else m.read b :=
  Memory.read_write_of_from m a b v 0 h

theorem Memory.read_write_same (m : Memory) (a : Nat) (v : Byte) (h : m.wf = true) : (m.write a v).read a = v := by
  rw [Memory.read_write m a a v h, if_pos rfl]

theorem Memory.read_write_other (m : Memory) (a b : Nat) (v : Byte) (h : m.wf = true) (hb : b ≠ a) :
    (m.write a v).read b = m.read b := by
  rw [Memory.read_write m a b v h, if_neg hb]

/-- A canonical list from a later address on is canonical from an earlier one on. -/
theorem Memory.wfFrom_mono (m : Memory) (lo hi : Nat) (h : Memory.wfFrom hi m = true) (hle : lo ≤ hi) :
    Memory.wfFrom lo m = true := by
  cases m with
  | nil => rfl
  | cons c rest =>
    obtain ⟨k, x⟩ := c
    rw [Memory.wfFrom_cons] at h ⊢
    exact ⟨by omega, h.2⟩

theorem Memory.wfFrom_write (m : Memory) (a : Nat) (v : Byte) (ha : a < bufCells) :
    ∀ lo, Memory.wfFrom lo m = true → lo ≤ a → Memory.wfFrom lo (m.write a v) = true := by
  induction m with
  | nil =>
    intro lo _ hlo
    rw [Memory.write]
    split
    · rfl
    · rename_i hv
      exact (Memory.wfFrom_cons lo a v []).mpr ⟨hlo, ha, hv, rfl⟩
  | cons c rest ih =>
    obtain ⟨k, x⟩ := c
    intro lo h hlo
    obtain ⟨h1, h2, h3, h4⟩ := (Memory.wfFrom_cons lo k x rest).mp h
    rw [Memory.write]
    by_cases hlt : a < k
    · rw [if_pos hlt]
      by_cases hv : v = Memory.unlisted
      · rw [if_pos hv]; exact h
      · rw [if_neg hv, Memory.wfFrom_cons, Memory.wfFrom_cons]
        exact ⟨hlo, ha, hv, by omega, h2, h3, h4⟩
    · rw [if_neg hlt]
      by_cases hk : a = k
      · rw [if_pos hk]
        by_cases hv : v = Memory.unlisted
        · rw [if_pos hv]; exact Memory.wfFrom_mono rest lo (k + 1) h4 (by omega)
        · rw [if_neg hv, Memory.wfFrom_cons]; exact ⟨h1, h2, hv, h4⟩
      · rw [if_neg hk, Memory.wfFrom_cons]
        exact ⟨h1, h2, h3, ih (k + 1) h4 (by omega)⟩

/-- Every write keeps the canonical form. -/
theorem Memory.wf_write (m : Memory) (a : Nat) (v : Byte) (h : m.wf = true) (ha : a < bufCells) :
    (m.write a v).wf = true :=
  Memory.wfFrom_write m a v ha 0 h (Nat.zero_le a)

@[simp] theorem Memory.wf_nil : Memory.wf [] = true := rfl

/-- Loading all five cells gives a canonical buffer. -/
theorem Memory.wf_ofBytes (b : BufBytes) : (Memory.ofBytes b).wf = true := by
  unfold Memory.ofBytes
  exact Memory.wf_write _ _ _ (Memory.wf_write _ _ _ (Memory.wf_write _ _ _ (Memory.wf_write _ _ _
    (Memory.wf_write _ _ _ rfl (by decide)) (by decide)) (by decide)) (by decide)) (by decide)

/-- What each cell reads as after all five are loaded. -/
theorem Memory.read_ofBytes (b : BufBytes) (a : Nat) :
    (Memory.ofBytes b).read a =
      if a = 4 then b.b4 else if a = 3 then b.b3 else if a = 2 then b.b2 else if a = 1 then b.b1
      else if a = 0 then b.b0 else 0#8 := by
  have w0 : ((Memory.write [] 0 b.b0)).wf = true := Memory.wf_write _ _ _ rfl (by decide)
  have w1 := Memory.wf_write _ 1 b.b1 w0 (by decide)
  have w2 := Memory.wf_write _ 2 b.b2 w1 (by decide)
  have w3 := Memory.wf_write _ 3 b.b3 w2 (by decide)
  unfold Memory.ofBytes
  rw [Memory.read_write _ 4 a _ w3, Memory.read_write _ 3 a _ w2, Memory.read_write _ 2 a _ w1,
    Memory.read_write _ 1 a _ w0, Memory.read_write [] 0 a _ rfl]
  rfl

@[simp] theorem Memory.zeroed_eq : Memory.zeroed = [] := by decide

/-- Two buffers canonical from the same address on that read alike are equal data. -/
theorem Memory.ext_from (m : Memory) : ∀ (lo : Nat) (m' : Memory), Memory.wfFrom lo m = true → Memory.wfFrom lo m' = true →
    (∀ a, m.read a = m'.read a) → m = m' := by
  have head_le : ∀ (k : Nat) (x : Byte) (rest rest' : Memory) (k' : Nat) (x' : Byte), x ≠ Memory.unlisted →
      Memory.wfFrom (k' + 1) rest' = true → Memory.read ((k, x) :: rest) k = Memory.read ((k', x') :: rest') k → k' ≤ k := by
    intro k x rest rest' k' x' hx h' hr
    by_contra hlt
    rw [Memory.read_cons, if_pos rfl, Memory.read_cons, if_neg (by omega),
      Memory.read_below rest' (k' + 1) k h' (by omega)] at hr
    exact hx hr
  induction m with
  | nil =>
    intro lo m' _ h' hr
    cases m' with
    | nil => rfl
    | cons c rest =>
      obtain ⟨k, x⟩ := c
      have hx := ((Memory.wfFrom_cons lo k x rest).mp h').2.2.1
      have := hr k
      rw [Memory.read_cons, if_pos rfl] at this
      exact absurd this.symm hx
  | cons c rest ih =>
    obtain ⟨k, x⟩ := c
    intro lo m' h h' hr
    obtain ⟨-, -, hx, hw⟩ := (Memory.wfFrom_cons lo k x rest).mp h
    cases m' with
    | nil =>
      have := hr k
      rw [Memory.read_cons, if_pos rfl] at this
      exact absurd this hx
    | cons c' rest' =>
      obtain ⟨k', x'⟩ := c'
      obtain ⟨-, -, hx', hw'⟩ := (Memory.wfFrom_cons lo k' x' rest').mp h'
      have hk : k = k' := Nat.le_antisymm (head_le k' x' rest' rest k x hx' hw (hr k').symm)
        (head_le k x rest rest' k' x' hx hw' (hr k))
      subst hk
      have hxx : x = x' := by simpa using hr k
      subst hxx
      congr 1
      refine ih (k + 1) rest' hw hw' fun a => ?_
      by_cases ha : k = a
      · subst ha
        rw [Memory.read_below rest (k + 1) k hw (by omega), Memory.read_below rest' (k + 1) k hw' (by omega)]
      · simpa [ha] using hr a

/-- Equal memories are equal data. -/
theorem Memory.ext (m m' : Memory) (h : m.wf = true) (h' : m'.wf = true) (hr : ∀ a, m.read a = m'.read a) : m = m' :=
  Memory.ext_from m 0 m' h h' hr

end Sys2Proof.Machine
end

