-- ==== Sys2Proof/Laws/State.lean ====
section
/-! SUPPORT. One lemma for each field under each named update of Machine/Ops.lean and Machine/Cycle.lean, so that no proof
unfolds a record update. -/

namespace Sys2Proof.Machine

open Sys2Proof

variable (s : State)

section loadCounter
variable (v : Word)

@[simp] theorem loadCounter_counter : (s.loadCounter v).counter = v := rfl
@[simp] theorem loadCounter_run : (s.loadCounter v).run = s.run := rfl
@[simp] theorem loadCounter_ovfEn : (s.loadCounter v).ovfEn = s.ovfEn := rfl
@[simp] theorem loadCounter_capEn : (s.loadCounter v).capEn = s.capEn := rfl
@[simp] theorem loadCounter_edge : (s.loadCounter v).edge = s.edge := rfl
@[simp] theorem loadCounter_drive : (s.loadCounter v).drive = s.drive := rfl
@[simp] theorem loadCounter_bitcnt : (s.loadCounter v).bitcnt = s.bitcnt := rfl
@[simp] theorem loadCounter_buf : (s.loadCounter v).buf = s.buf := rfl
@[simp] theorem loadCounter_linePrev : (s.loadCounter v).linePrev = s.linePrev := rfl
@[simp] theorem loadCounter_phase : (s.loadCounter v).phase = s.phase := rfl
@[simp] theorem loadCounter_tempOut : (s.loadCounter v).tempOut = s.tempOut := rfl
@[simp] theorem loadCounter_rhOut : (s.loadCounter v).rhOut = s.rhOut := rfl
@[simp] theorem loadCounter_cfg : (s.loadCounter v).cfg = s.cfg := rfl
@[simp] theorem loadCounter_inputs : (s.loadCounter v).inputs = s.inputs := rfl
@[simp] theorem loadCounter_resp : (s.loadCounter v).resp = s.resp := rfl

end loadCounter

section startCounter

@[simp] theorem startCounter_counter : (s.startCounter).counter = s.counter := rfl
@[simp] theorem startCounter_run : (s.startCounter).run = true := rfl
@[simp] theorem startCounter_ovfEn : (s.startCounter).ovfEn = s.ovfEn := rfl
@[simp] theorem startCounter_capEn : (s.startCounter).capEn = s.capEn := rfl
@[simp] theorem startCounter_edge : (s.startCounter).edge = s.edge := rfl
@[simp] theorem startCounter_drive : (s.startCounter).drive = s.drive := rfl
@[simp] theorem startCounter_bitcnt : (s.startCounter).bitcnt = s.bitcnt := rfl
@[simp] theorem startCounter_buf : (s.startCounter).buf = s.buf := rfl
@[simp] theorem startCounter_linePrev : (s.startCounter).linePrev = s.linePrev := rfl
@[simp] theorem startCounter_phase : (s.startCounter).phase = s.phase := rfl
@[simp] theorem startCounter_tempOut : (s.startCounter).tempOut = s.tempOut := rfl
@[simp] theorem startCounter_rhOut : (s.startCounter).rhOut = s.rhOut := rfl
@[simp] theorem startCounter_cfg : (s.startCounter).cfg = s.cfg := rfl
@[simp] theorem startCounter_inputs : (s.startCounter).inputs = s.inputs := rfl
@[simp] theorem startCounter_resp : (s.startCounter).resp = s.resp := rfl

end startCounter

section stopCounter

@[simp] theorem stopCounter_counter : (s.stopCounter).counter = s.counter := rfl
@[simp] theorem stopCounter_run : (s.stopCounter).run = false := rfl
@[simp] theorem stopCounter_ovfEn : (s.stopCounter).ovfEn = s.ovfEn := rfl
@[simp] theorem stopCounter_capEn : (s.stopCounter).capEn = s.capEn := rfl
@[simp] theorem stopCounter_edge : (s.stopCounter).edge = s.edge := rfl
@[simp] theorem stopCounter_drive : (s.stopCounter).drive = s.drive := rfl
@[simp] theorem stopCounter_bitcnt : (s.stopCounter).bitcnt = s.bitcnt := rfl
@[simp] theorem stopCounter_buf : (s.stopCounter).buf = s.buf := rfl
@[simp] theorem stopCounter_linePrev : (s.stopCounter).linePrev = s.linePrev := rfl
@[simp] theorem stopCounter_phase : (s.stopCounter).phase = s.phase := rfl
@[simp] theorem stopCounter_tempOut : (s.stopCounter).tempOut = s.tempOut := rfl
@[simp] theorem stopCounter_rhOut : (s.stopCounter).rhOut = s.rhOut := rfl
@[simp] theorem stopCounter_cfg : (s.stopCounter).cfg = s.cfg := rfl
@[simp] theorem stopCounter_inputs : (s.stopCounter).inputs = s.inputs := rfl
@[simp] theorem stopCounter_resp : (s.stopCounter).resp = s.resp := rfl

end stopCounter

section armOverflow

@[simp] theorem armOverflow_counter : (s.armOverflow).counter = s.counter := rfl
@[simp] theorem armOverflow_run : (s.armOverflow).run = s.run := rfl
@[simp] theorem armOverflow_ovfEn : (s.armOverflow).ovfEn = true := rfl
@[simp] theorem armOverflow_capEn : (s.armOverflow).capEn = s.capEn := rfl
@[simp] theorem armOverflow_edge : (s.armOverflow).edge = s.edge := rfl
@[simp] theorem armOverflow_drive : (s.armOverflow).drive = s.drive := rfl
@[simp] theorem armOverflow_bitcnt : (s.armOverflow).bitcnt = s.bitcnt := rfl
@[simp] theorem armOverflow_buf : (s.armOverflow).buf = s.buf := rfl
@[simp] theorem armOverflow_linePrev : (s.armOverflow).linePrev = s.linePrev := rfl
@[simp] theorem armOverflow_phase : (s.armOverflow).phase = s.phase := rfl
@[simp] theorem armOverflow_tempOut : (s.armOverflow).tempOut = s.tempOut := rfl
@[simp] theorem armOverflow_rhOut : (s.armOverflow).rhOut = s.rhOut := rfl
@[simp] theorem armOverflow_cfg : (s.armOverflow).cfg = s.cfg := rfl
@[simp] theorem armOverflow_inputs : (s.armOverflow).inputs = s.inputs := rfl
@[simp] theorem armOverflow_resp : (s.armOverflow).resp = s.resp := rfl

end armOverflow

section armCapture

@[simp] theorem armCapture_counter : (s.armCapture).counter = s.counter := rfl
@[simp] theorem armCapture_run : (s.armCapture).run = s.run := rfl
@[simp] theorem armCapture_ovfEn : (s.armCapture).ovfEn = s.ovfEn := rfl
@[simp] theorem armCapture_capEn : (s.armCapture).capEn = true := rfl
@[simp] theorem armCapture_edge : (s.armCapture).edge = s.edge := rfl
@[simp] theorem armCapture_drive : (s.armCapture).drive = s.drive := rfl
@[simp] theorem armCapture_bitcnt : (s.armCapture).bitcnt = s.bitcnt := rfl
@[simp] theorem armCapture_buf : (s.armCapture).buf = s.buf := rfl
@[simp] theorem armCapture_linePrev : (s.armCapture).linePrev = s.linePrev := rfl
@[simp] theorem armCapture_phase : (s.armCapture).phase = s.phase := rfl
@[simp] theorem armCapture_tempOut : (s.armCapture).tempOut = s.tempOut := rfl
@[simp] theorem armCapture_rhOut : (s.armCapture).rhOut = s.rhOut := rfl
@[simp] theorem armCapture_cfg : (s.armCapture).cfg = s.cfg := rfl
@[simp] theorem armCapture_inputs : (s.armCapture).inputs = s.inputs := rfl
@[simp] theorem armCapture_resp : (s.armCapture).resp = s.resp := rfl

end armCapture

section disableEvents

@[simp] theorem disableEvents_counter : (s.disableEvents).counter = s.counter := rfl
@[simp] theorem disableEvents_run : (s.disableEvents).run = s.run := rfl
@[simp] theorem disableEvents_ovfEn : (s.disableEvents).ovfEn = false := rfl
@[simp] theorem disableEvents_capEn : (s.disableEvents).capEn = false := rfl
@[simp] theorem disableEvents_edge : (s.disableEvents).edge = s.edge := rfl
@[simp] theorem disableEvents_drive : (s.disableEvents).drive = s.drive := rfl
@[simp] theorem disableEvents_bitcnt : (s.disableEvents).bitcnt = s.bitcnt := rfl
@[simp] theorem disableEvents_buf : (s.disableEvents).buf = s.buf := rfl
@[simp] theorem disableEvents_linePrev : (s.disableEvents).linePrev = s.linePrev := rfl
@[simp] theorem disableEvents_phase : (s.disableEvents).phase = s.phase := rfl
@[simp] theorem disableEvents_tempOut : (s.disableEvents).tempOut = s.tempOut := rfl
@[simp] theorem disableEvents_rhOut : (s.disableEvents).rhOut = s.rhOut := rfl
@[simp] theorem disableEvents_cfg : (s.disableEvents).cfg = s.cfg := rfl
@[simp] theorem disableEvents_inputs : (s.disableEvents).inputs = s.inputs := rfl
@[simp] theorem disableEvents_resp : (s.disableEvents).resp = s.resp := rfl

end disableEvents

section selectEdge
variable (e : Edge)

@[simp] theorem selectEdge_counter : (s.selectEdge e).counter = s.counter := rfl
@[simp] theorem selectEdge_run : (s.selectEdge e).run = s.run := rfl
@[simp] theorem selectEdge_ovfEn : (s.selectEdge e).ovfEn = s.ovfEn := rfl
@[simp] theorem selectEdge_capEn : (s.selectEdge e).capEn = s.capEn := rfl
@[simp] theorem selectEdge_edge : (s.selectEdge e).edge = e := rfl
@[simp] theorem selectEdge_drive : (s.selectEdge e).drive = s.drive := rfl
@[simp] theorem selectEdge_bitcnt : (s.selectEdge e).bitcnt = s.bitcnt := rfl
@[simp] theorem selectEdge_buf : (s.selectEdge e).buf = s.buf := rfl
@[simp] theorem selectEdge_linePrev : (s.selectEdge e).linePrev = s.linePrev := rfl
@[simp] theorem selectEdge_phase : (s.selectEdge e).phase = s.phase := rfl
@[simp] theorem selectEdge_tempOut : (s.selectEdge e).tempOut = s.tempOut := rfl
@[simp] theorem selectEdge_rhOut : (s.selectEdge e).rhOut = s.rhOut := rfl
@[simp] theorem selectEdge_cfg : (s.selectEdge e).cfg = s.cfg := rfl
@[simp] theorem selectEdge_inputs : (s.selectEdge e).inputs = s.inputs := rfl
@[simp] theorem selectEdge_resp : (s.selectEdge e).resp = s.resp := rfl

end selectEdge

section driveLine

@[simp] theorem driveLine_counter : (s.driveLine).counter = s.counter := rfl
@[simp] theorem driveLine_run : (s.driveLine).run = s.run := rfl
@[simp] theorem driveLine_ovfEn : (s.driveLine).ovfEn = s.ovfEn := rfl
@[simp] theorem driveLine_capEn : (s.driveLine).capEn = s.capEn := rfl
@[simp] theorem driveLine_edge : (s.driveLine).edge = s.edge := rfl
@[simp] theorem driveLine_drive : (s.driveLine).drive = true := rfl
@[simp] theorem driveLine_bitcnt : (s.driveLine).bitcnt = s.bitcnt := rfl
@[simp] theorem driveLine_buf : (s.driveLine).buf = s.buf := rfl
@[simp] theorem driveLine_linePrev : (s.driveLine).linePrev = s.linePrev := rfl
@[simp] theorem driveLine_phase : (s.driveLine).phase = s.phase := rfl
@[simp] theorem driveLine_tempOut : (s.driveLine).tempOut = s.tempOut := rfl
@[simp] theorem driveLine_rhOut : (s.driveLine).rhOut = s.rhOut := rfl
@[simp] theorem driveLine_cfg : (s.driveLine).cfg = s.cfg := rfl
@[simp] theorem driveLine_inputs : (s.driveLine).inputs = s.inputs := rfl
@[simp] theorem driveLine_resp : (s.driveLine).resp = s.resp := rfl

end driveLine

section releaseLine

@[simp] theorem releaseLine_counter : (s.releaseLine).counter = s.counter := rfl
@[simp] theorem releaseLine_run : (s.releaseLine).run = s.run := rfl
@[simp] theorem releaseLine_ovfEn : (s.releaseLine).ovfEn = s.ovfEn := rfl
@[simp] theorem releaseLine_capEn : (s.releaseLine).capEn = s.capEn := rfl
@[simp] theorem releaseLine_edge : (s.releaseLine).edge = s.edge := rfl
@[simp] theorem releaseLine_drive : (s.releaseLine).drive = false := rfl
@[simp] theorem releaseLine_bitcnt : (s.releaseLine).bitcnt = s.bitcnt := rfl
@[simp] theorem releaseLine_buf : (s.releaseLine).buf = s.buf := rfl
@[simp] theorem releaseLine_linePrev : (s.releaseLine).linePrev = s.linePrev := rfl
@[simp] theorem releaseLine_phase : (s.releaseLine).phase = s.phase := rfl
@[simp] theorem releaseLine_tempOut : (s.releaseLine).tempOut = s.tempOut := rfl
@[simp] theorem releaseLine_rhOut : (s.releaseLine).rhOut = s.rhOut := rfl
@[simp] theorem releaseLine_cfg : (s.releaseLine).cfg = s.cfg := rfl
@[simp] theorem releaseLine_inputs : (s.releaseLine).inputs = s.inputs := rfl
@[simp] theorem releaseLine_resp : (s.releaseLine).resp = s.resp := rfl

end releaseLine

section setBitcnt
variable (v : BitCount)

@[simp] theorem setBitcnt_counter : (s.setBitcnt v).counter = s.counter := rfl
@[simp] theorem setBitcnt_run : (s.setBitcnt v).run = s.run := rfl
@[simp] theorem setBitcnt_ovfEn : (s.setBitcnt v).ovfEn = s.ovfEn := rfl
@[simp] theorem setBitcnt_capEn : (s.setBitcnt v).capEn = s.capEn := rfl
@[simp] theorem setBitcnt_edge : (s.setBitcnt v).edge = s.edge := rfl
@[simp] theorem setBitcnt_drive : (s.setBitcnt v).drive = s.drive := rfl
@[simp] theorem setBitcnt_bitcnt : (s.setBitcnt v).bitcnt = v := rfl
@[simp] theorem setBitcnt_buf : (s.setBitcnt v).buf = s.buf := rfl
@[simp] theorem setBitcnt_linePrev : (s.setBitcnt v).linePrev = s.linePrev := rfl
@[simp] theorem setBitcnt_phase : (s.setBitcnt v).phase = s.phase := rfl
@[simp] theorem setBitcnt_tempOut : (s.setBitcnt v).tempOut = s.tempOut := rfl
@[simp] theorem setBitcnt_rhOut : (s.setBitcnt v).rhOut = s.rhOut := rfl
@[simp] theorem setBitcnt_cfg : (s.setBitcnt v).cfg = s.cfg := rfl
@[simp] theorem setBitcnt_inputs : (s.setBitcnt v).inputs = s.inputs := rfl
@[simp] theorem setBitcnt_resp : (s.setBitcnt v).resp = s.resp := rfl

end setBitcnt

section loadBuf
variable (m : Memory)

@[simp] theorem loadBuf_counter : (s.loadBuf m).counter = s.counter := rfl
@[simp] theorem loadBuf_run : (s.loadBuf m).run = s.run := rfl
@[simp] theorem loadBuf_ovfEn : (s.loadBuf m).ovfEn = s.ovfEn := rfl
@[simp] theorem loadBuf_capEn : (s.loadBuf m).capEn = s.capEn := rfl
@[simp] theorem loadBuf_edge : (s.loadBuf m).edge = s.edge := rfl
@[simp] theorem loadBuf_drive : (s.loadBuf m).drive = s.drive := rfl
@[simp] theorem loadBuf_bitcnt : (s.loadBuf m).bitcnt = s.bitcnt := rfl
@[simp] theorem loadBuf_buf : (s.loadBuf m).buf = m := rfl
@[simp] theorem loadBuf_linePrev : (s.loadBuf m).linePrev = s.linePrev := rfl
@[simp] theorem loadBuf_phase : (s.loadBuf m).phase = s.phase := rfl
@[simp] theorem loadBuf_tempOut : (s.loadBuf m).tempOut = s.tempOut := rfl
@[simp] theorem loadBuf_rhOut : (s.loadBuf m).rhOut = s.rhOut := rfl
@[simp] theorem loadBuf_cfg : (s.loadBuf m).cfg = s.cfg := rfl
@[simp] theorem loadBuf_inputs : (s.loadBuf m).inputs = s.inputs := rfl
@[simp] theorem loadBuf_resp : (s.loadBuf m).resp = s.resp := rfl

end loadBuf

section sampleLine
variable (l : Bool)

@[simp] theorem sampleLine_counter : (s.sampleLine l).counter = s.counter := rfl
@[simp] theorem sampleLine_run : (s.sampleLine l).run = s.run := rfl
@[simp] theorem sampleLine_ovfEn : (s.sampleLine l).ovfEn = s.ovfEn := rfl
@[simp] theorem sampleLine_capEn : (s.sampleLine l).capEn = s.capEn := rfl
@[simp] theorem sampleLine_edge : (s.sampleLine l).edge = s.edge := rfl
@[simp] theorem sampleLine_drive : (s.sampleLine l).drive = s.drive := rfl
@[simp] theorem sampleLine_bitcnt : (s.sampleLine l).bitcnt = s.bitcnt := rfl
@[simp] theorem sampleLine_buf : (s.sampleLine l).buf = s.buf := rfl
@[simp] theorem sampleLine_linePrev : (s.sampleLine l).linePrev = l := rfl
@[simp] theorem sampleLine_phase : (s.sampleLine l).phase = s.phase := rfl
@[simp] theorem sampleLine_tempOut : (s.sampleLine l).tempOut = s.tempOut := rfl
@[simp] theorem sampleLine_rhOut : (s.sampleLine l).rhOut = s.rhOut := rfl
@[simp] theorem sampleLine_cfg : (s.sampleLine l).cfg = s.cfg := rfl
@[simp] theorem sampleLine_inputs : (s.sampleLine l).inputs = s.inputs := rfl
@[simp] theorem sampleLine_resp : (s.sampleLine l).resp = s.resp := rfl

end sampleLine

section enterPhase
variable (p : Phase)

@[simp] theorem enterPhase_counter : (s.enterPhase p).counter = s.counter := rfl
@[simp] theorem enterPhase_run : (s.enterPhase p).run = s.run := rfl
@[simp] theorem enterPhase_ovfEn : (s.enterPhase p).ovfEn = s.ovfEn := rfl
@[simp] theorem enterPhase_capEn : (s.enterPhase p).capEn = s.capEn := rfl
@[simp] theorem enterPhase_edge : (s.enterPhase p).edge = s.edge := rfl
@[simp] theorem enterPhase_drive : (s.enterPhase p).drive = s.drive := rfl
@[simp] theorem enterPhase_bitcnt : (s.enterPhase p).bitcnt = s.bitcnt := rfl
@[simp] theorem enterPhase_buf : (s.enterPhase p).buf = s.buf := rfl
@[simp] theorem enterPhase_linePrev : (s.enterPhase p).linePrev = s.linePrev := rfl
@[simp] theorem enterPhase_phase : (s.enterPhase p).phase = p := rfl
@[simp] theorem enterPhase_tempOut : (s.enterPhase p).tempOut = s.tempOut := rfl
@[simp] theorem enterPhase_rhOut : (s.enterPhase p).rhOut = s.rhOut := rfl
@[simp] theorem enterPhase_cfg : (s.enterPhase p).cfg = s.cfg := rfl
@[simp] theorem enterPhase_inputs : (s.enterPhase p).inputs = s.inputs := rfl
@[simp] theorem enterPhase_resp : (s.enterPhase p).resp = s.resp := rfl

end enterPhase

section loadReading
variable (x y : Half)

@[simp] theorem loadReading_counter : (s.loadReading x y).counter = s.counter := rfl
@[simp] theorem loadReading_run : (s.loadReading x y).run = s.run := rfl
@[simp] theorem loadReading_ovfEn : (s.loadReading x y).ovfEn = s.ovfEn := rfl
@[simp] theorem loadReading_capEn : (s.loadReading x y).capEn = s.capEn := rfl
@[simp] theorem loadReading_edge : (s.loadReading x y).edge = s.edge := rfl
@[simp] theorem loadReading_drive : (s.loadReading x y).drive = s.drive := rfl
@[simp] theorem loadReading_bitcnt : (s.loadReading x y).bitcnt = s.bitcnt := rfl
@[simp] theorem loadReading_buf : (s.loadReading x y).buf = s.buf := rfl
@[simp] theorem loadReading_linePrev : (s.loadReading x y).linePrev = s.linePrev := rfl
@[simp] theorem loadReading_phase : (s.loadReading x y).phase = s.phase := rfl
@[simp] theorem loadReading_tempOut : (s.loadReading x y).tempOut = x := rfl
@[simp] theorem loadReading_rhOut : (s.loadReading x y).rhOut = y := rfl
@[simp] theorem loadReading_cfg : (s.loadReading x y).cfg = s.cfg := rfl
@[simp] theorem loadReading_inputs : (s.loadReading x y).inputs = s.inputs := rfl
@[simp] theorem loadReading_resp : (s.loadReading x y).resp = s.resp := rfl

end loadReading

section respond
variable (r : Response)

@[simp] theorem respond_counter : (s.respond r).counter = s.counter := rfl
@[simp] theorem respond_run : (s.respond r).run = s.run := rfl
@[simp] theorem respond_ovfEn : (s.respond r).ovfEn = s.ovfEn := rfl
@[simp] theorem respond_capEn : (s.respond r).capEn = s.capEn := rfl
@[simp] theorem respond_edge : (s.respond r).edge = s.edge := rfl
@[simp] theorem respond_drive : (s.respond r).drive = s.drive := rfl
@[simp] theorem respond_bitcnt : (s.respond r).bitcnt = s.bitcnt := rfl
@[simp] theorem respond_buf : (s.respond r).buf = s.buf := rfl
@[simp] theorem respond_linePrev : (s.respond r).linePrev = s.linePrev := rfl
@[simp] theorem respond_phase : (s.respond r).phase = s.phase := rfl
@[simp] theorem respond_tempOut : (s.respond r).tempOut = s.tempOut := rfl
@[simp] theorem respond_rhOut : (s.respond r).rhOut = s.rhOut := rfl
@[simp] theorem respond_cfg : (s.respond r).cfg = s.cfg := rfl
@[simp] theorem respond_inputs : (s.respond r).inputs = s.inputs := rfl
@[simp] theorem respond_resp : (s.respond r).resp = some r := rfl

end respond

section clearResponse

@[simp] theorem clearResponse_counter : (s.clearResponse).counter = s.counter := rfl
@[simp] theorem clearResponse_run : (s.clearResponse).run = s.run := rfl
@[simp] theorem clearResponse_ovfEn : (s.clearResponse).ovfEn = s.ovfEn := rfl
@[simp] theorem clearResponse_capEn : (s.clearResponse).capEn = s.capEn := rfl
@[simp] theorem clearResponse_edge : (s.clearResponse).edge = s.edge := rfl
@[simp] theorem clearResponse_drive : (s.clearResponse).drive = s.drive := rfl
@[simp] theorem clearResponse_bitcnt : (s.clearResponse).bitcnt = s.bitcnt := rfl
@[simp] theorem clearResponse_buf : (s.clearResponse).buf = s.buf := rfl
@[simp] theorem clearResponse_linePrev : (s.clearResponse).linePrev = s.linePrev := rfl
@[simp] theorem clearResponse_phase : (s.clearResponse).phase = s.phase := rfl
@[simp] theorem clearResponse_tempOut : (s.clearResponse).tempOut = s.tempOut := rfl
@[simp] theorem clearResponse_rhOut : (s.clearResponse).rhOut = s.rhOut := rfl
@[simp] theorem clearResponse_cfg : (s.clearResponse).cfg = s.cfg := rfl
@[simp] theorem clearResponse_inputs : (s.clearResponse).inputs = s.inputs := rfl
@[simp] theorem clearResponse_resp : (s.clearResponse).resp = none := rfl

end clearResponse

section endCycle

@[simp] theorem endCycle_counter : (s.endCycle).counter = s.counter := rfl
@[simp] theorem endCycle_run : (s.endCycle).run = s.run := rfl
@[simp] theorem endCycle_ovfEn : (s.endCycle).ovfEn = s.ovfEn := rfl
@[simp] theorem endCycle_capEn : (s.endCycle).capEn = s.capEn := rfl
@[simp] theorem endCycle_edge : (s.endCycle).edge = s.edge := rfl
@[simp] theorem endCycle_drive : (s.endCycle).drive = s.drive := rfl
@[simp] theorem endCycle_bitcnt : (s.endCycle).bitcnt = s.bitcnt := rfl
@[simp] theorem endCycle_buf : (s.endCycle).buf = s.buf := rfl
@[simp] theorem endCycle_linePrev : (s.endCycle).linePrev = s.linePrev := rfl
@[simp] theorem endCycle_phase : (s.endCycle).phase = s.phase := rfl
@[simp] theorem endCycle_tempOut : (s.endCycle).tempOut = s.tempOut := rfl
@[simp] theorem endCycle_rhOut : (s.endCycle).rhOut = s.rhOut := rfl
@[simp] theorem endCycle_cfg : (s.endCycle).cfg = s.cfg := rfl
@[simp] theorem endCycle_inputs : (s.endCycle).inputs = s.inputs.tail := rfl
@[simp] theorem endCycle_resp : (s.endCycle).resp = s.resp := rfl

end endCycle

section present
variable (x : CycleInput)

@[simp] theorem present_counter : (s.present x).counter = s.counter := rfl
@[simp] theorem present_run : (s.present x).run = s.run := rfl
@[simp] theorem present_ovfEn : (s.present x).ovfEn = s.ovfEn := rfl
@[simp] theorem present_capEn : (s.present x).capEn = s.capEn := rfl
@[simp] theorem present_edge : (s.present x).edge = s.edge := rfl
@[simp] theorem present_drive : (s.present x).drive = s.drive := rfl
@[simp] theorem present_bitcnt : (s.present x).bitcnt = s.bitcnt := rfl
@[simp] theorem present_buf : (s.present x).buf = s.buf := rfl
@[simp] theorem present_linePrev : (s.present x).linePrev = s.linePrev := rfl
@[simp] theorem present_phase : (s.present x).phase = s.phase := rfl
@[simp] theorem present_tempOut : (s.present x).tempOut = s.tempOut := rfl
@[simp] theorem present_rhOut : (s.present x).rhOut = s.rhOut := rfl
@[simp] theorem present_cfg : (s.present x).cfg = s.cfg := rfl
@[simp] theorem present_inputs : (s.present x).inputs = x :: s.inputs.tail := rfl
@[simp] theorem present_resp : (s.present x).resp = s.resp := rfl

end present

end Sys2Proof.Machine
end

