-- ==== Sys2Proof/Laws/Ops.lean ====
section
/-! SUPPORT. What each shared operation can do, said once: the outcomes, the partial updates, the dispatch of an event,
TICK and the cycle. Provers cite these and unfold nothing. -/

namespace Sys2Proof.Machine

open Sys2Proof

/-! ### Outcomes -/

@[simp] theorem andThen_next (s : State) (f : State → Result) : andThen (.next s) f = f s := rfl
@[simp] theorem andThen_fault (r : Fault) (f : State → Result) : andThen (.fault r) f = .fault r := rfl
@[simp] theorem andThen_refused (r : Refusal) (f : State → Result) : andThen (.refused r) f = .refused r := rfl
@[simp] theorem nextOf_next (s : State) : nextOf (.next s) = some s := rfl
@[simp] theorem nextOf_fault (r : Fault) : nextOf (.fault r) = none := rfl
@[simp] theorem nextOf_refused (r : Refusal) : nextOf (.refused r) = none := rfl

/-- A sequence has a next state exactly through a next state of its first part. -/
theorem andThen_eq_next {o : Result} {f : State → Result} {t : State} :
    andThen o f = .next t ↔ ∃ u, o = .next u ∧ f u = .next t := by
  cases o <;> simp [andThen]

theorem nextOf_eq_some {o : Result} {t : State} : nextOf o = some t ↔ o = .next t := by
  cases o <;> simp [nextOf]

/-! ### Partial updates -/

/-- A store to a cell that exists writes it. -/
theorem storeCell_of_lt {i : Nat} (v : Byte) (s : State) (h : i < bufCells) :
    storeCell i v s = .next (s.loadBuf (s.buf.write i v)) := if_pos h

/-- Everything a store can do when it answers a next state. -/
theorem storeCell_eq_next {i : Nat} {v : Byte} {s t : State} :
    storeCell i v s = .next t ↔ i < bufCells ∧ t = s.loadBuf (s.buf.write i v) := by
  unfold storeCell
  split
  · rename_i h
    exact ⟨fun he => ⟨h, (Host.Outcome.next.inj he).symm⟩, fun he => congrArg Host.Outcome.next he.2.symm⟩
  · rename_i h
    exact ⟨fun he => (nomatch he), fun he => absurd he.1 h⟩

theorem decrementBitcnt_of_ne (s : State) (h : s.bitcnt ≠ 0#6) :
    decrementBitcnt s = .next (s.setBitcnt (s.bitcnt - 1#6)) := if_neg h

/-- Everything a decrement can do when it answers a next state. -/
theorem decrementBitcnt_eq_next {s t : State} :
    decrementBitcnt s = .next t ↔ s.bitcnt ≠ 0#6 ∧ t = s.setBitcnt (s.bitcnt - 1#6) := by
  unfold decrementBitcnt
  split
  · rename_i h
    exact ⟨fun he => (nomatch he), fun he => absurd h he.1⟩
  · rename_i h
    exact ⟨fun he => ⟨h, (Host.Outcome.next.inj he).symm⟩, fun he => congrArg Host.Outcome.next he.2.symm⟩

/-- The cell a payload bit is stored to exists. -/
theorem byteIndex_lt {n : BitCount} (h : n.toNat < ackLimit) : byteIndex n < bufCells := by
  unfold byteIndex ackLimit bufCells at *
  omega

/-- Storing a bit keeps the canonical form. -/
theorem wf_storeBit {i : Nat} {pw : Word} {s t : State} (h : storeBit i pw s = .next t) (hw : s.buf.wf = true) :
    t.buf.wf = true := by
  obtain ⟨hi, rfl⟩ := storeCell_eq_next.mp h
  exact Memory.wf_write s.buf i _ hw hi

/-! ### The dispatch of an event -/

/-- The bits of the dispatch word (R75). -/
theorem eventWord_bits (k : EventKind) (s : State) :
    (eventWord k s).getLsbD 4 = k.bit ∧ (eventWord k s).getLsbD 3 = s.capEn ∧ (eventWord k s).getLsbD 2 = s.edge.bit ∧
      (eventWord k s).getLsbD 1 = inAcknowledgment s ∧ (eventWord k s).getLsbD 0 = atLastBit s := by
  have bits : ∀ a b c d e : Bool, (BitVec.ofBool a ++ BitVec.ofBool b ++ BitVec.ofBool c ++ BitVec.ofBool d
      ++ BitVec.ofBool e : BitVec 5).getLsbD 4 = a ∧ (BitVec.ofBool a ++ BitVec.ofBool b ++ BitVec.ofBool c
      ++ BitVec.ofBool d ++ BitVec.ofBool e : BitVec 5).getLsbD 3 = b ∧ (BitVec.ofBool a ++ BitVec.ofBool b
      ++ BitVec.ofBool c ++ BitVec.ofBool d ++ BitVec.ofBool e : BitVec 5).getLsbD 2 = c ∧ (BitVec.ofBool a
      ++ BitVec.ofBool b ++ BitVec.ofBool c ++ BitVec.ofBool d ++ BitVec.ofBool e : BitVec 5).getLsbD 1 = d ∧
      (BitVec.ofBool a ++ BitVec.ofBool b ++ BitVec.ofBool c ++ BitVec.ofBool d ++ BitVec.ofBool e : BitVec 5).getLsbD 0
        = e := by decide
  exact bits _ _ _ _ _

/-- The operation an overflow event selects (R130). -/
theorem decode_overflow (s : State) :
    decodeEventOp (eventWord .overflow s) = .ok (if s.capEn = true then .ovfTimeout else .ovfStartEnd) := by
  obtain ⟨h4, h3, -, -, -⟩ := eventWord_bits .overflow s
  rw [decodeEventOp, h4, h3]
  cases s.capEn <;> rfl

/-- The operation a capture event selects (R146). -/
theorem decode_capture (s : State) (armed : s.capEn = true) :
    decodeEventOp (eventWord .capture s) = .ok (if s.edge = .rising then .capRise
      else if ackLimit ≤ s.bitcnt.toNat then .capFallAck else if s.bitcnt = 0#6 then .capFallLast else .capFallBit) := by
  obtain ⟨h4, h3, h2, h1, h0⟩ := eventWord_bits .capture s
  rw [decodeEventOp, h4, h3, h2, h1, h0, armed]
  have apart : ackLimit ≤ s.bitcnt.toNat → s.bitcnt ≠ 0#6 := by
    intro hn hz
    rw [hz] at hn
    exact absurd hn (by decide)
  cases he : s.edge
  · by_cases hn : ackLimit ≤ s.bitcnt.toNat
    · simp [Edge.bit, EventKind.bit, inAcknowledgment, atLastBit, hn, apart hn]
    · by_cases hz : s.bitcnt = 0#6 <;> simp [Edge.bit, EventKind.bit, inAcknowledgment, atLastBit, hn, hz]
  · rfl

/-- A capture event with the capture unit not armed is no event (R77). -/
theorem raiseEvent_capture_unarmed (pw : Word) (s : State) (h : s.capEn = false) :
    raiseEvent .capture pw s = .next s := by
  obtain ⟨h4, h3, -, -, -⟩ := eventWord_bits .capture s
  rw [raiseEvent, decodeEventOp, h4, h3, h]
  rfl

/-- Everything an event can do, one case for each operation it can select, with the condition that selected it and the next
state it gives; and it always gives one. -/
theorem raiseEvent_cases (k : EventKind) (pw : Word) (s : State) :
    (k = .overflow ∧ s.capEn = false ∧ raiseEvent k pw s = .next
      (s.releaseLine.loadCounter 0#16 |>.selectEdge .falling |>.armCapture |>.enterPhase .listening)) ∨
    (k = .overflow ∧ s.capEn = true ∧ raiseEvent k pw s = .next
      (s.disableEvents.stopCounter.loadCounter sentinel |>.enterPhase .timedOut)) ∨
    (k = .capture ∧ s.capEn = false ∧ raiseEvent k pw s = .next s) ∨
    (k = .capture ∧ s.capEn = true ∧ s.edge = .rising ∧ raiseEvent k pw s = .next (s.selectEdge .falling)) ∨
    (k = .capture ∧ s.capEn = true ∧ s.edge = .falling ∧ ackLimit ≤ s.bitcnt.toNat ∧ raiseEvent k pw s = .next
      (s.setBitcnt (s.bitcnt - 1#6) |>.selectEdge .rising)) ∨
    (k = .capture ∧ s.capEn = true ∧ s.edge = .falling ∧ s.bitcnt.toNat < ackLimit ∧ s.bitcnt ≠ 0#6 ∧
      raiseEvent k pw s = .next
        (s.loadBuf (s.buf.write (byteIndex s.bitcnt) (shiftIn (s.buf.read (byteIndex s.bitcnt)) (classify s.cfg pw)))
          |>.setBitcnt (s.bitcnt - 1#6) |>.selectEdge .rising)) ∨
    (k = .capture ∧ s.capEn = true ∧ s.edge = .falling ∧ s.bitcnt = 0#6 ∧ raiseEvent k pw s = .next
      ((s.loadBuf (s.buf.write 0 (shiftIn (s.buf.read 0) (classify s.cfg pw)))).disableEvents.stopCounter.enterPhase .done
        |>.selectEdge .rising)) := by
  cases k with
  | overflow =>
    cases hc : s.capEn
    · exact .inl ⟨rfl, rfl, by rw [raiseEvent, decode_overflow, hc]; rfl⟩
    · exact .inr (.inl ⟨rfl, rfl, by rw [raiseEvent, decode_overflow, hc]; rfl⟩)
  | capture =>
    cases hc : s.capEn
    · exact .inr (.inr (.inl ⟨rfl, rfl, raiseEvent_capture_unarmed pw s hc⟩))
    · right; right; right
      cases he : s.edge
      · right
        by_cases hn : ackLimit ≤ s.bitcnt.toNat
        · refine .inl ⟨rfl, rfl, rfl, hn, ?_⟩
          have hz : s.bitcnt ≠ 0#6 := by intro hz; rw [hz] at hn; exact absurd hn (by decide)
          rw [raiseEvent, decode_capture s hc]
          simp [he, hn, runEventOp, execCapFallAck, decrementBitcnt_of_ne s hz]
        · have hlt : s.bitcnt.toNat < ackLimit := by omega
          right
          by_cases hz : s.bitcnt = 0#6
          · refine .inr ⟨rfl, rfl, rfl, hz, ?_⟩
            rw [raiseEvent, decode_capture s hc, if_neg (by rw [he]; decide), if_neg hn, if_pos hz]
            simp only [runEventOp, execCapFallLast, storeBit]
            rw [storeCell_of_lt _ _ (by decide), andThen_next]
          · refine .inl ⟨rfl, rfl, rfl, hlt, hz, ?_⟩
            rw [raiseEvent, decode_capture s hc, if_neg (by rw [he]; decide), if_neg hn, if_neg hz]
            simp only [runEventOp, execCapFallBit, storeBit]
            rw [storeCell_of_lt _ _ (byteIndex_lt hlt), andThen_next, decrementBitcnt_of_ne]
            · rfl
            · exact hz
      · refine .inl ⟨rfl, rfl, rfl, ?_⟩
        rw [raiseEvent, decode_capture s hc, if_pos he]
        rfl

/-! ### TICK -/

theorem execTick_stopped (l : Bool) (s : State) (h : s.run = false) : execTick l s = .next (s.sampleLine l) := by
  simp [execTick, h]

theorem execTick_capture (l : Bool) (s : State) (h : s.run = true) (armed : s.capEn = true)
    (sel : selectedEdge s.edge s.linePrev l = true) :
    execTick l s = raiseEvent .capture s.counter (s.sampleLine l |>.loadCounter 0#16) := by
  simp [execTick, h, armed, sel]

theorem execTick_wrap (l : Bool) (s : State) (h : s.run = true)
    (quiet : (s.capEn && selectedEdge s.edge s.linePrev l) = false) (hc : s.counter = cmax) (armed : s.ovfEn = true) :
    execTick l s = raiseEvent .overflow 0#16 (s.sampleLine l |>.loadCounter 0#16) := by
  simp [execTick, h, quiet, hc, armed]

theorem execTick_silentWrap (l : Bool) (s : State) (h : s.run = true)
    (quiet : (s.capEn && selectedEdge s.edge s.linePrev l) = false) (hc : s.counter = cmax) (masked : s.ovfEn = false) :
    execTick l s = .next (s.sampleLine l |>.loadCounter 0#16) := by
  simp [execTick, h, quiet, hc, masked]

theorem execTick_count (l : Bool) (s : State) (h : s.run = true)
    (quiet : (s.capEn && selectedEdge s.edge s.linePrev l) = false) (hc : s.counter ≠ cmax) :
    execTick l s = .next (s.sampleLine l |>.loadCounter (s.counter + 1#16)) := by
  simp [execTick, h, quiet, hc]

/-- Everything TICK can do: it does nothing but sample, it counts, it wraps in silence, or it raises one event. -/
theorem execTick_cases (l : Bool) (s : State) :
    (s.run = false ∧ execTick l s = .next (s.sampleLine l)) ∨
    (s.run = true ∧ s.capEn = true ∧ selectedEdge s.edge s.linePrev l = true ∧
      execTick l s = raiseEvent .capture s.counter (s.sampleLine l |>.loadCounter 0#16)) ∨
    (s.run = true ∧ (s.capEn && selectedEdge s.edge s.linePrev l) = false ∧ s.counter = cmax ∧ s.ovfEn = true ∧
      execTick l s = raiseEvent .overflow 0#16 (s.sampleLine l |>.loadCounter 0#16)) ∨
    (s.run = true ∧ (s.capEn && selectedEdge s.edge s.linePrev l) = false ∧ s.counter = cmax ∧ s.ovfEn = false ∧
      execTick l s = .next (s.sampleLine l |>.loadCounter 0#16)) ∨
    (s.run = true ∧ (s.capEn && selectedEdge s.edge s.linePrev l) = false ∧ s.counter ≠ cmax ∧
      execTick l s = .next (s.sampleLine l |>.loadCounter (s.counter + 1#16))) := by
  cases hr : s.run
  · exact .inl ⟨rfl, execTick_stopped l s hr⟩
  · right
    cases hq : s.capEn && selectedEdge s.edge s.linePrev l
    · right
      by_cases hc : s.counter = cmax
      · cases ho : s.ovfEn
        · exact .inr (.inl ⟨rfl, rfl, hc, rfl, execTick_silentWrap l s hr hq hc ho⟩)
        · exact .inl ⟨rfl, rfl, hc, rfl, execTick_wrap l s hr hq hc ho⟩
      · exact .inr (.inr ⟨rfl, rfl, hc, execTick_count l s hr hq hc⟩)
    · obtain ⟨h1, h2⟩ := Bool.and_eq_true_iff.mp hq
      exact .inl ⟨rfl, h1, h2, execTick_capture l s hr h1 h2⟩

/-! ### The cycle -/

theorem step_eq (s : State) : step s = runCycle s := rfl

/-- A cycle with `rst = 1` decodes to RESET, and every other cycle to its command (R71). -/
theorem decodeCyc_word (x : CycleInput) :
    decodeCyc x.word = if x.rst = true then .reset else decodeCommand x.cmd := by
  have table : ∀ (r : Bool) (c : BitVec 3), decodeCyc (BitVec.ofBool r ++ c) = if r = true then .reset else decodeCommand c := by
    decide
  exact table x.rst x.cmd

/-- No command code selects RESET or TICK. -/
theorem decodeCommand_ne (c : BitVec 3) : decodeCommand c ≠ .reset ∧ ∀ l, decodeCommand c ≠ .tick l := by
  have table : ∀ c : BitVec 3, decodeCommand c ≠ .reset ∧ decodeCommand c ≠ .tick true ∧ decodeCommand c ≠ .tick false := by
    decide
  refine ⟨(table c).1, fun l => ?_⟩
  cases l
  · exact (table c).2.2
  · exact (table c).2.1

/-- Everything a cycle with `rst = 1` does. -/
theorem runCycle_reset (s : State) (h : s.input.rst = true) :
    runCycle s = andThen (exec .reset s.clearResponse) fun u => .next u.endCycle := by
  have hi : (s.clearResponse).input = s.input := rfl
  simp only [runCycle, State.fetchWord, decodeCyc_word, hi, h, if_true]

/-- Everything a cycle with `rst = 0` does. -/
theorem runCycle_command (s : State) (h : s.input.rst = false) :
    runCycle s = andThen (andThen (exec (.tick s.lineIn) s.clearResponse) (exec (decodeCommand s.input.cmd)))
      fun u => .next u.endCycle := by
  have hi : (s.clearResponse).input = s.input := rfl
  have hl : (s.clearResponse).lineIn = s.lineIn := rfl
  simp only [runCycle, State.fetchWord, decodeCyc_word, hi, hl, h, Bool.false_eq_true, if_false,
    (decodeCommand_ne s.input.cmd).1]

end Sys2Proof.Machine
end

