-- ==== Sys2Proof/Laws/Abstraction.lean ====
section
/-! SUPPORT. The small laws of the event-level abstraction (spec 40_timer_gpio R113). -/

namespace Sys2Proof.Machine

open Sys2Proof

/-- The block agrees with itself. -/
theorem agrees_refl (s : State) : Agrees s s := ⟨rfl, fun _ => rfl⟩

/-- What the abstraction does not see makes no difference to it. -/
theorem agrees_unseen (s : State) (l : Bool) (v : Word) (h : s.run = true) :
    Agrees { s with linePrev := l, counter := v } s := ⟨rfl, fun hr => by simp [h] at hr⟩

/-- Agreement is kept by the bookkeeping of a cycle. -/
theorem agrees_bookkeeping {s a : State} (h : Agrees s a) :
    Agrees s.clearResponse a.clearResponse ∧ Agrees s.endCycle a.endCycle := by
  obtain ⟨ha, hc⟩ := h
  refine ⟨⟨?_, hc⟩, ⟨?_, hc⟩⟩ <;> rw [ha] <;> rfl

/-- One run of the abstraction after another. -/
theorem AbstractRun.append {ops more : List Instr} {s t u : State} (h : AbstractRun ops s t) (k : AbstractRun more t u) :
    AbstractRun (ops ++ more) s u := by
  induction h with
  | stop s => exact k
  | event h _ ih => exact .event h (ih k)
  | counter v run _ ih => exact .counter v run (ih k)
  | operation w h _ ih => exact .operation w h (ih k)

/-- A counter that is not tracked can take the block's value, so that agreement is exact but for `LINE_PREV`. -/
theorem AbstractRun.track {ops : List Instr} {s a u : State} (h : Agrees s a)
    (rest : AbstractRun ops { s with linePrev := a.linePrev } u) : AbstractRun ops a u := by
  obtain ⟨ha, hc⟩ := h
  cases hr : s.run
  · rw [ha, hc hr]
    exact rest
  · refine .counter s.counter ?_ ?_
    · rw [ha]
      exact hr
    · rw [ha]
      exact rest

end Sys2Proof.Machine
end

