-- ==== Sys2Proof/Laws/Bench.lean ====
section
/-! SUPPORT. The small laws of the bench of block and sensor (spec 30_encoding R86, R87). -/

namespace Sys2Proof.Machine.Script

open Sys2Proof

@[simp] theorem pull_waiting : Sensor.waiting.pull = false := rfl
@[simp] theorem pull_playing (q : List Bool) : (Sensor.playing q).pull = q.headD false := rfl
@[simp] theorem advance_waiting (p : List Bool) : Sensor.waiting.advance p false = .waiting := rfl
@[simp] theorem advance_begins (p : List Bool) : Sensor.waiting.advance p true = .playing p := rfl
@[simp] theorem advance_playing (p q : List Bool) (e : Bool) : (Sensor.playing q).advance p e = .playing q.tail := rfl

/-- Everything the end of the start pulse asks for. -/
theorem startPulseEnded_iff (rst : Bool) (s t : State) :
    startPulseEnded rst s t = true ↔
      rst = false ∧ s.run = true ∧ s.ovfEn = true ∧ s.capEn = false ∧ s.counter = cmax ∧ t.drive = false := by
  simp only [startPulseEnded, Bool.and_eq_true, Bool.not_eq_true', decide_eq_true_eq, and_assoc]

/-- Everything a cycle of the bench can do: the step of the block on the presented input, and the sensor one cycle on. -/
theorem benchCycle_eq_some {p : List Bool} {w : BitVec 4} {b c : Bench} :
    benchCycle p w b = some c ↔
      step (b.state.present ⟨w.getLsbD 3, w.extractLsb' 0 3, .sensor b.sensor.pull⟩) = .next c.state ∧
        c.sensor = b.sensor.advance p (startPulseEnded (w.getLsbD 3) b.state c.state) := by
  rw [benchCycle, Option.map_eq_some_iff]
  constructor
  · rintro ⟨t, ht, rfl⟩
    exact ⟨nextOf_eq_some.mp ht, rfl⟩
  · rintro ⟨ht, hs⟩
    exact ⟨c.state, nextOf_eq_some.mpr ht, by rw [← hs]⟩

/-- A run of the bench, one word after another. -/
theorem benchRun_append (p : List Bool) (v w : List (BitVec 4)) (b : Bench) :
    benchRun p (v ++ w) b = (benchRun p v b).bind (benchRun p w) := by
  induction v generalizing b with
  | nil => rfl
  | cons x v ih => simp only [List.cons_append, benchRun, Option.bind_assoc, ih]

end Sys2Proof.Machine.Script
end

