-- ==== Sys2Proof/Laws/Operands.lean ====
section
/-! SUPPORT. What each assembled operand is as a number or bit by bit, so that later proofs do arithmetic and no bit
twiddling. -/

namespace Sys2Proof.Machine

open Sys2Proof

/-- The classifier compares the numbers. -/
theorem classify_iff (c : Config) (pw : Word) : classify c pw = true ↔ c.threshold.toNat < pw.toNat := by
  simp [classify, BitVec.ult]

/-- A shifted cell as a number: doubled modulo 256, plus the bit. -/
theorem shiftIn_toNat (x : Byte) (b : Bool) : (shiftIn x b).toNat = 2 * x.toNat % 256 + b.toNat := by
  revert x b
  decide

/-- A shifted cell bit by bit: the new bit at 0, every other bit moved up one place. -/
theorem shiftIn_getLsbD (x : Byte) (b : Bool) (k : Nat) :
    (shiftIn x b).getLsbD k = if k = 0 then b else (decide (k < 8) && x.getLsbD (k - 1)) := by
  cases k with
  | zero => simp [shiftIn]
  | succ n => simp [shiftIn, BitVec.getLsbD_or, BitVec.getLsbD_shiftLeft, BitVec.getLsbD_setWidth]

/-- Two cells as one number. -/
theorem joinBytes_toNat (hi lo : Byte) : (joinBytes hi lo).toNat = 256 * hi.toNat + lo.toNat := by
  have h1 := hi.isLt
  have h2 := lo.isLt
  have e : joinBytes hi lo = BitVec.ofNat 16 (256 * hi.toNat + lo.toNat) := by
    apply BitVec.eq_of_toNat_eq
    have hs : hi.toNat <<< 8 % 2 ^ 16 = 2 ^ 8 * hi.toNat := by rw [Nat.shiftLeft_eq]; omega
    rw [joinBytes, BitVec.toNat_or, BitVec.toNat_shiftLeft, BitVec.toNat_setWidth, BitVec.toNat_setWidth,
      BitVec.toNat_ofNat, Nat.mod_eq_of_lt (show hi.toNat < 2 ^ 16 by omega),
      Nat.mod_eq_of_lt (show lo.toNat < 2 ^ 16 by omega), hs, ← Nat.two_pow_add_eq_or_of_lt h2]
    omega
  rw [e, BitVec.toNat_ofNat]
  omega

/-- The checksum as a number (R163). -/
theorem checksum_toNat (m : Memory) :
    (checksum m).toNat = ((m.read 4).toNat + (m.read 3).toNat + (m.read 2).toNat + (m.read 1).toNat) % 256 := by
  simp [checksum, BitVec.toNat_add]

/-- Each cell is its eight bits of the payload word (R79). -/
theorem joinCells_extract (b4 b3 b2 b1 b0 : Byte) :
    (joinCells b4 b3 b2 b1 b0).extractLsb' 32 8 = b4 ∧ (joinCells b4 b3 b2 b1 b0).extractLsb' 24 8 = b3 ∧
    (joinCells b4 b3 b2 b1 b0).extractLsb' 16 8 = b2 ∧ (joinCells b4 b3 b2 b1 b0).extractLsb' 8 8 = b1 ∧
    (joinCells b4 b3 b2 b1 b0).extractLsb' 0 8 = b0 := by
  refine ⟨?_, ?_, ?_, ?_, ?_⟩ <;> apply BitVec.eq_of_getLsbD_eq <;> intro i hi <;>
    simp only [joinCells, BitVec.getLsbD_extractLsb', BitVec.getLsbD_or, BitVec.getLsbD_shiftLeft,
      BitVec.getLsbD_setWidth] <;>
    interval_cases i <;> simp

/-- `PRELOAD` as a number, for parameters in their bounds (R9). -/
theorem preload_toNat (c : Config) : (preload c).toNat = (2 ^ 16 - c.startTicks) % 2 ^ 16 := by
  simp [preload]

end Sys2Proof.Machine
end

