-- ==== Sys2Proof/Laws/PerInstr.lean ====
section
/-! SUPPORT. The family `OpcodeRow`: the word an instruction encodes to fits its row of the opcode table. -/

namespace Sys2Proof.Laws.OpcodeRow

open Sys2Proof

/-- The word `i` encodes to, if it has one, has the fixed bits of `i`'s row. -/
def Statement (i : Instr) : Prop := ∀ w, encode i = some w → i.row.fits w = true

/-- An instruction whose word is `w` and fits satisfies the statement. -/
theorem of_word {i : Instr} {w : OpWord} (h : encode i = some w) (hf : i.row.fits w = true) : Statement i := by
  intro w' h'
  rw [h] at h'
  cases h'
  exact hf

theorem reset : Statement .reset := of_word rfl rfl
theorem tick (lineIn : Bool) : Statement (.tick lineIn) := fun _ h => nomatch h
theorem nop : Statement .nop := of_word rfl rfl
theorem init : Statement .init := of_word rfl rfl
theorem triggerRead : Statement .triggerRead := of_word rfl rfl
theorem getResult : Statement .getResult := of_word rfl rfl
theorem getRawData : Statement .getRawData := of_word rfl rfl
theorem reserved5 : Statement .reserved5 := of_word rfl rfl
theorem reserved6 : Statement .reserved6 := of_word rfl rfl
theorem reserved7 : Statement .reserved7 := of_word rfl rfl
theorem ovfStartEnd : Statement .ovfStartEnd := of_word rfl rfl
theorem ovfTimeout : Statement .ovfTimeout := of_word rfl rfl
theorem capRise (pw : Word) : Statement (.capRise pw) := of_word rfl (by simp [Instr.row, OpcodeRow.fits])
theorem capFallAck (pw : Word) : Statement (.capFallAck pw) := of_word rfl (by simp [Instr.row, OpcodeRow.fits])
theorem capFallBit (pw : Word) : Statement (.capFallBit pw) := of_word rfl (by simp [Instr.row, OpcodeRow.fits])
theorem capFallLast (pw : Word) : Statement (.capFallLast pw) := of_word rfl (by simp [Instr.row, OpcodeRow.fits])

end Sys2Proof.Laws.OpcodeRow
end

