-- ==== Sys2Proof/Tests/Slice0.lean ====
section
/-! SUPPORT. Tests of the model. The expected results are written out from spec/: the encodings from 30_encoding R71 to
R77, the states from the vectors `V<n>` of 95_test_vectors. A theorem named `witness_…` shows a state and operands that meet
the hypotheses of the obligation it is named after. -/

namespace Sys2Proof.Tests

open Sys2Proof Sys2Proof.Machine

/-! ### Small states -/

/-- The buffer `b4 b3 b2 b1 b0`, in receipt order. -/
def bytes (b4 b3 b2 b1 b0 : Byte) : Memory := Memory.ofBytes ⟨b0, b1, b2, b3, b4⟩

/-- The buffer of the spec's nominal reading, and the same one bit earlier. -/
def goodFrame : Memory := bytes 0x02#8 0x8D#8 0x00#8 0xE7#8 0x76#8
def lastBitMissing : Memory := bytes 0x02#8 0x8D#8 0x00#8 0xE7#8 0x3B#8

/-- A state in `Driving`. -/
def driving (counter : Word) : State :=
  { State.reset with run := true, ovfEn := true, drive := true, counter := counter, phase := .driving }

/-- A state in `Listening`. -/
def listening (edge : Edge) (counter : Word) (bitcnt : BitCount) (buf : Memory) (linePrev : Bool) : State :=
  { State.reset with run := true, ovfEn := true, capEn := true, phase := .listening, edge := edge, counter := counter,
                     bitcnt := bitcnt, buf := buf, linePrev := linePrev }

/-- A state in `Done`, with the reading of the GET_RESULT vectors. -/
def done (buf : Memory) : State :=
  { State.reset with phase := .done, edge := .rising, bitcnt := 0#6, buf := buf, tempOut := 0xFFF9#16, rhOut := 9#16 }

/-- A state in `TimedOut`. -/
def timedOut (bitcnt : BitCount) (buf : Memory) : State :=
  { State.reset with phase := .timedOut, counter := 0xFFFF#16, bitcnt := bitcnt, buf := buf }

/-- A state whose next cycle has the given inputs. -/
def given (s : State) (rst : Bool) (cmd : BitVec 3) (lineIn : Bool) : State :=
  { s with inputs := [⟨rst, cmd, .level lineIn⟩] }

/-! ### Well-formed operations -/

/-- Ill-formed: no word selects TICK (R72). -/
theorem smoke_tick_is_refused : (Instr.tick true).wellFormed = false ∧ (Instr.tick false).wellFormed = false := by decide
theorem smoke_others_are_accepted : [Instr.reset, .nop, .init, .triggerRead, .getResult, .getRawData, .reserved5, .reserved6,
    .reserved7, .ovfStartEnd, .ovfTimeout, .capRise 0xFFFF#16, .capFallAck 0#16, .capFallBit 801#16,
    .capFallLast 800#16].all Instr.wellFormed = true := by decide

/-! ### Words written out from the spec's encodings -/

/-- R71: `rst` is bit 3 and selects RESET whatever `cmd` is. -/
theorem test_words_reset : (List.range 8).all (fun c => decode (.cyc (BitVec.ofNat 4 (8 + c))) matches .ok .reset) = true := by
  decide
/-- R73. -/
theorem test_words_commands : decode (.cyc 0b0000#4) = .ok .nop ∧ decode (.cyc 0b0001#4) = .ok .init ∧
    decode (.cyc 0b0010#4) = .ok .triggerRead ∧ decode (.cyc 0b0011#4) = .ok .getResult ∧
    decode (.cyc 0b0100#4) = .ok .getRawData := ⟨rfl, rfl, rfl, rfl, rfl⟩
/-- R74. -/
theorem test_words_reserved : decode (.cyc 0b0101#4) = .ok .reserved5 ∧ decode (.cyc 0b0110#4) = .ok .reserved6 ∧
    decode (.cyc 0b0111#4) = .ok .reserved7 := ⟨rfl, rfl, rfl⟩
/-- R76: `00xxx` and `01xxx`. -/
theorem test_words_overflow : decode (.evt 0b00000#5 0#16) = .ok .ovfStartEnd ∧ decode (.evt 0b00110#5 0#16) = .ok .ovfStartEnd ∧
    decode (.evt 0b01000#5 0#16) = .ok .ovfTimeout ∧ decode (.evt 0b01101#5 0#16) = .ok .ovfTimeout := ⟨rfl, rfl, rfl, rfl⟩
/-- R76: `111xx`, `11010`, `11000`, `11001`. -/
theorem test_words_capture : decode (.evt 0b11100#5 799#16) = .ok (.capRise 799#16) ∧
    decode (.evt 0b11110#5 799#16) = .ok (.capRise 799#16) ∧ decode (.evt 0b11010#5 480#16) = .ok (.capFallAck 480#16) ∧
    decode (.evt 0b11000#5 801#16) = .ok (.capFallBit 801#16) ∧ decode (.evt 0b11001#5 447#16) = .ok (.capFallLast 447#16) :=
  ⟨rfl, rfl, rfl, rfl, rfl⟩
/-- R77. -/
theorem test_words_rejected : decode (.evt 0b10000#5 0#16) = .error .captureNotArmed ∧
    decode (.evt 0b10111#5 0#16) = .error .captureNotArmed ∧ decode (.evt 0b11011#5 0#16) = .error .bitCounterContradiction :=
  ⟨rfl, rfl, rfl⟩
/-- The encoder writes the table's fixed bits. -/
theorem test_encode : encode .getRawData = some (.cyc 0b0100#4) ∧ encode (.capFallLast 7#16) = some (.evt 0b11001#5 7#16) ∧
    encode (.tick true) = none := ⟨rfl, rfl, rfl⟩
/-- The table's numbering: bit 3 of a 4-bit row is `rst`, bit 4 of a 5-bit row is `k`. -/
theorem test_table_words : decodeTableWord 4 0x8 = some .reset ∧ decodeTableWord 4 0x2 = some .triggerRead ∧
    decodeTableWord 5 0x08 = some .ovfTimeout ∧ decodeTableWord 5 0x1A = some (.capFallAck 0#16) ∧
    decodeTableWord 8 0x03 = some .getResult ∧ decodeTableWord 8 0x1C = some (.capRise 0#16) ∧
    decodeTableWord 8 0x1B = none ∧ decodeTableWord 8 0x20 = none := by decide

/-! ### A step from a placed word -/

/-- The command of a placed CYC word runs as the first operation after reset (R73, R120). -/
theorem test_fetch_trigger : (nextOf (step (State.reset.withFetchWord 4 0x2))).map (fun t => (t.ctrl, t.counter, t.phase)) =
    some (0b10011#5, 0xC180#16, .driving) := by decide
/-- The event of a placed EVT word runs in the next step (R76, R132; R143). -/
theorem test_fetch_timeout : (nextOf (step (State.reset.withFetchWord 5 0x08))).map (fun t => (t.counter, t.phase)) =
    some (0xFFFF#16, .timedOut) := by decide
theorem test_fetch_bit : (nextOf (step (State.reset.withFetchWord 8 0x18))).map (fun t => (t.edge, t.bitcnt, t.counter)) =
    some (.rising, 38#6, 0#16) := by decide
/-- A word that decodes to nothing places nothing. -/
theorem test_fetch_rejected : State.reset.withFetchWord 5 0x1B = State.reset := by decide

/-! ### TICK (V3, V8, V9) -/

theorem test_tick_silent_wrap :
    (nextOf (exec (.tick true) { State.reset with run := true, counter := 0xFFFF#16 })).map (·.counter) = some 0#16 := by decide
theorem test_tick_tie : (nextOf (exec (.tick true) (listening .rising 0xFFFF#16 10#6 [] false))).map
    (fun t => (t.counter, t.ctrl, t.phase)) = some (0#16, 0b00111#5, .listening) := by decide
theorem test_tick_stores : (nextOf (exec (.tick false)
    (listening .falling 0xFFFF#16 10#6 (bytes 1#8 2#8 3#8 0x40#8 0#8) true))).map (fun t => (t.bitcnt, t.buf.read 1)) =
    some (9#6, 0x81#8) := by decide

/-! ### TRIGGER_READ (V12), and in the cycle of the last falling edge (V14) -/

theorem test_trigger_after_done : (nextOf (exec .triggerRead (done goodFrame))).map
    (fun t => (t.ctrl, t.counter, t.bitcnt, t.buf)) = some (0b11011#5, 0xC180#16, 41#6, []) := by decide
theorem test_trigger_in_last_cycle :
    (nextOf (step (given (listening .falling 0x01BF#16 0#6 lastBitMissing true) false 0b010#3 false))).map
      (fun t => (t.ctrl, t.counter, t.buf, t.linePrev)) = some (0b11011#5, 0xC180#16, [], false) := by decide

/-! ### The overflow operations (V16, V18) -/

theorem test_start_end : (nextOf (exec (.tick false) { driving 0xFFFF#16 with edge := .rising, linePrev := false })).map
    (fun t => (t.ctrl, t.counter, t.phase)) = some (0b00111#5, 0#16, .listening) := by decide
theorem test_timeout_stuck_low : (nextOf (exec (.tick false) (listening .rising 0xFFFF#16 40#6 [] false))).map
    (fun t => (t.ctrl, t.counter, t.bitcnt)) = some (0b01000#5, 0xFFFF#16, 40#6) := by decide

/-! ### The capture operations (V20, V22, V25, V26, V30, V34, V35, V36) -/

theorem test_rise : (nextOf (exec (.capRise 799#16) (listening .rising 0#16 39#6 [] true))).map
    (fun t => (t.edge, t.bitcnt)) = some (.falling, 39#6) := by decide
theorem test_ack_stores_nothing : (nextOf (exec (.capFallAck 5000#16) (listening .falling 0#16 40#6 [] false))).map
    (fun t => (t.edge, t.bitcnt, t.buf)) = some (.rising, 39#6, []) := by decide
theorem test_bit_at_threshold : (nextOf (exec (.capFallBit 800#16)
    (listening .falling 0#16 38#6 (bytes 1#8 0#8 0#8 0#8 0#8) false))).map (fun t => (t.bitcnt, t.buf.read 4)) =
    some (37#6, 0x02#8) := by decide
theorem test_bit_above_threshold : (nextOf (exec (.capFallBit 801#16)
    (listening .falling 0#16 32#6 (bytes 1#8 0#8 0#8 0#8 0#8) false))).map (fun t => (t.bitcnt, t.buf.read 4, t.buf.read 3)) =
    some (31#6, 0x03#8, 0#8) := by decide
theorem test_last : (nextOf (exec (.capFallLast 447#16) (listening .falling 0#16 0#6 lastBitMissing false))).map
    (fun t => (t.ctrl, t.buf, t.phase, t.bitcnt)) = some (0b01000#5, goodFrame, .done, 0#6) := by decide
theorem test_last_is_classified : (nextOf (exec (.capFallLast 1119#16) (listening .falling 0#16 0#6 lastBitMissing false))).map
    (·.buf.read 0) = some 0x77#8 := by decide

/-! ### GET_RESULT and GET_RAW_DATA (V51, V52, V54, V60, V71) -/

theorem test_result_ongoing : resultCode { done goodFrame with run := true, counter := 0xFFFF#16 } = .ongoing ∧
    resultCode { done goodFrame with counter := 0xFFFF#16 } = .timeout := by decide
theorem test_result_ok : (nextOf (exec .getResult (done goodFrame))).map (fun t => (t.resp, t.tempOut, t.rhOut)) =
    some (some (.result .ok), 231#16, 653#16) := by decide
theorem test_result_negative : (nextOf (exec .getResult (done (bytes 0x01#8 0xF4#8 0x80#8 0x65#8 0xDA#8)))).map
    (fun t => (t.resp, t.tempOut, t.rhOut)) = some (some (.result .ok), 0xFF9B#16, 500#16) := by decide
theorem test_raw : (nextOf (exec .getRawData (listening .rising 0#16 20#6 (bytes 1#8 0xF4#8 4#8 0#8 0#8) false))).map
    (·.resp) = some (some (.raw 0x01F4040000#40 20#6)) := by decide

/-! ### INIT, NOP, the reserved codes, RESET (V76, V78, V79, V80, V81) -/

theorem test_init : (nextOf (exec .init { listening .rising 0x008C#16 17#6 goodFrame false with drive := true })).map
    (fun t => (t.ctrl, t.phase, t.counter, t.bitcnt)) = some (0b01000#5, .idle, 0x008C#16, 17#6) := by decide
theorem test_nop_and_reserved : [Instr.nop, .reserved5, .reserved6, .reserved7].all (fun i =>
    nextOf (exec i (done goodFrame)) == some (done goodFrame)) = true := by decide
theorem test_reset_overrides : (nextOf (step (given (listening .rising 0x008C#16 17#6 goodFrame false) true 0b010#3 false))).map
    (fun t => (t.ctrl, t.phase, t.bitcnt, t.linePrev, t.resp)) = some (0b00000#5, .idle, 41#6, true, none) := by decide

/-! ### Witnesses: the cycle and TICK -/

theorem witness_reset_wf : Config.wf State.reset.cfg = true ∧ exec .reset State.reset = .next State.reset := ⟨by decide, rfl⟩
theorem witness_StepRunsTheDecodedOperation :
    (decode (.cyc (given State.reset true 0b111#3 true).fetchWord) = .ok .reset ∧ Instr.reset.wellFormed = true) ∧
    decode (.cyc (given State.reset false 0b100#3 true).fetchWord) = .ok .getRawData ∧ Instr.getRawData.wellFormed = true :=
  ⟨⟨rfl, rfl⟩, rfl, rfl⟩
/-- Every value of `cmd`, and `rst`. -/
theorem witness_CycleRunsResetAloneOrTickThenCommand : (given State.reset true 0b000#3 true).input.rst = true ∧
    (List.range 8).all (fun c => !(given State.reset false (BitVec.ofNat 3 c) true).input.rst &&
      (given State.reset false (BitVec.ofNat 3 c) true).input.cmd == BitVec.ofNat 3 c) = true := by decide
theorem witness_a_step : ∃ t, step (given (done goodFrame) false 0b011#3 true) = .next t ∧ t.tempOut ≠ (done goodFrame).tempOut :=
  ⟨_, rfl, by decide⟩
theorem witness_a_reset_step : ∃ t, step (given (done goodFrame) true 0b011#3 true) = .next t ∧ t.rhOut ≠ (done goodFrame).rhOut :=
  ⟨_, rfl, by decide⟩

/-- The clauses of TICK, at the ends of the counter's range. -/
theorem witness_TickAdvancesTheCounter : (done goodFrame).run = false ∧
    ((driving 65534#16).run = true ∧ ¬ ((driving 65534#16).capEn = true ∧
      selectedEdge (driving 65534#16).edge (driving 65534#16).linePrev false = true) ∧ (driving 65534#16).counter.toNat < 65535) ∧
    (driving 0xFFFF#16).counter.toNat = 65535 ∧ (driving 0xFFFF#16).ovfEn = true ∧
    ({ driving 0xFFFF#16 with ovfEn := false }).ovfEn = false := by decide
theorem witness_CaptureEventTakesAndResetsTheCounter :
    (listening .rising 0xFFFF#16 0#6 [] false).run = true ∧ (listening .rising 0xFFFF#16 0#6 [] false).capEn = true ∧
    (listening .rising 0xFFFF#16 0#6 [] false).linePrev = false ∧ (listening .falling 0#16 41#6 [] true).edge = .falling ∧
    (listening .falling 0#16 41#6 [] true).linePrev = true := by decide
theorem witness_IgnoredEdgesLeaveNoTrace : (done goodFrame).run = false ∧ (driving 0#16).capEn = false ∧
    (listening .rising 0#16 1#6 [] true).edge = .rising ∧ (listening .falling 0#16 1#6 [] false).edge = .falling := by decide
theorem witness_EventRunsTheOperationItsWordSelects :
    decode (.evt (eventWord .capture (listening .falling 0#16 39#6 [] false)) 801#16) = .ok (.capFallBit 801#16) ∧
    (driving 0#16).capEn = false ∧ (listening .falling 0#16 40#6 [] false).capEn = true ∧
    40 ≤ (listening .falling 0#16 40#6 [] false).bitcnt.toNat ∧
    1 ≤ (listening .falling 0#16 1#6 [] false).bitcnt.toNat ∧ (listening .falling 0#16 39#6 [] false).bitcnt.toNat ≤ 39 ∧
    (listening .falling 0#16 0#6 [] false).bitcnt.toNat = 0 ∧ (listening .rising 0#16 0#6 [] false).edge = .rising :=
  ⟨rfl, by decide⟩
/-- Armed, so that the two statements of the capture handler apply. -/
theorem witness_CaptureEventIsTheWholeHandler : (listening .falling 0#16 0#6 lastBitMissing false).capEn = true := rfl
theorem witness_FreeEventsCoverEveryTick : Agrees (driving 3#16) (driving 500#16) ∧ Agrees (done []) (done []) ∧
    ∃ t, exec (.tick false) (driving 3#16) = .next t := ⟨⟨rfl, by decide⟩, ⟨rfl, fun _ => rfl⟩, _, rfl⟩

/-! ### Witnesses: the commands and the event operations -/

theorem witness_InitGivesTheRestState : MachineInv { State.reset with counter := 0x1234#16 } = true ∧
    State.reset.phase = .idle ∧ ∃ t, exec .init (driving 0#16) = .next t := ⟨by decide, rfl, _, rfl⟩
theorem witness_GetResultReportsTheFirstThatApplies : (driving 0xFFFF#16).run = true ∧
    ((timedOut 41#6 []).run = false ∧ (timedOut 41#6 []).counter.toNat = 65535) ∧
    ((done (bytes 0x02#8 0x8D#8 0#8 0xE7#8 0x77#8)).run = false ∧ (done goodFrame).counter.toNat ≠ 65535 ∧
      (0x02 + 0x8D + 0 + 0xE7) % 256 ≠ (0x77#8).toNat) ∧ (0x02 + 0x8D + 0 + 0xE7) % 256 = ((done goodFrame).buf.read 0).toNat := by
  decide
theorem witness_ChecksumRejectsEverySingleCorruption : Memory.wf goodFrame = true ∧ resultCode (done goodFrame) = .ok ∧
    (0x75#8) ≠ goodFrame.read 0 ∧ (0x8C#8) ≠ goodFrame.read 3 ∧ (done []).run = false ∧ (done []).counter.toNat ≠ 65535 := by
  decide
theorem witness_InitAndTheLabelsDoNotChangeTheAnswer : ∃ t, (timedOut 7#6 goodFrame).run = false ∧
    (timedOut 7#6 goodFrame).counter.toNat = 65535 ∧ exec .init (timedOut 7#6 goodFrame) = .next t :=
  ⟨_, rfl, by decide, rfl⟩
theorem witness_ReadingCommandsAreIdempotent : (∃ t, exec .getRawData (done goodFrame) = .next t) ∧
    (∃ t, exec .getResult (done goodFrame) = .next t ∧ t.resp = some (.result .ok)) ∧
    ∃ t, exec .getResult (timedOut 0#6 goodFrame) = .next t ∧ t.resp = some (.result .timeout) :=
  ⟨⟨_, rfl⟩, ⟨_, rfl, by decide⟩, _, rfl, by decide⟩
theorem witness_CapFallAckOnlyCounts : 40 ≤ (listening .falling 0#16 40#6 [] false).bitcnt.toNat ∧
    40 ≤ (listening .falling 0#16 41#6 [] false).bitcnt.toNat := by decide
theorem witness_CapFallBitStoresOneBit : Memory.wf goodFrame = true ∧ 1 ≤ (listening .falling 0#16 1#6 goodFrame false).bitcnt.toNat ∧
    (listening .falling 0#16 39#6 goodFrame false).bitcnt.toNat ≤ 39 := by decide
theorem witness_CapFallLastEndsTheFrame : Memory.wf lastBitMissing = true ∧
    (listening .falling 447#16 0#6 lastBitMissing true).run = true ∧ (listening .falling 447#16 0#6 lastBitMissing true).capEn = true ∧
    (listening .falling 447#16 0#6 lastBitMissing true).bitcnt.toNat = 0 := by decide
theorem witness_CapFallBitStopsOffItsRangeAndCapFallAckAtZero : 40 ≤ (listening .falling 0#16 40#6 [] false).bitcnt.toNat ∧
    (listening .falling 0#16 0#6 [] false).bitcnt.toNat = 0 := by decide
theorem witness_ClassifierIsStrictAtTheThreshold : Config.default.threshold = 800#16 ∧
    (799#16).toNat + 1 = Config.default.threshold.toNat ∧ (801#16).toNat = Config.default.threshold.toNat + 1 := by decide

/-! ### Witnesses: frames -/

/-- Each operation of the frame statement has a next state. -/
theorem witness_NonStoringOperationsKeepTheBuffer : [Instr.nop, .init, .getResult, .getRawData, .reserved5, .reserved6, .reserved7,
    .ovfStartEnd, .ovfTimeout, .capRise 799#16, .capFallAck 480#16].all (fun i =>
      (nextOf (exec i (listening .falling 0#16 41#6 goodFrame true))).isSome) = true := by decide
theorem witness_StoringCapturesWriteOneCell : Memory.wf goodFrame = true ∧
    (∃ t, exec (.capFallBit 801#16) (listening .falling 0#16 39#6 goodFrame true) = .next t) ∧
    ∃ t, exec (.capFallLast 801#16) (listening .falling 0#16 0#6 goodFrame true) = .next t := ⟨by decide, ⟨_, rfl⟩, _, rfl⟩
theorem witness_TickWritesAtMostOneCell : Memory.wf goodFrame = true ∧
    (∃ t, exec (.tick false) (listening .falling 801#16 39#6 goodFrame true) = .next t) ∧
    ¬ ((listening .falling 801#16 40#6 goodFrame true).bitcnt.toNat < 40) := ⟨by decide, ⟨_, rfl⟩, by decide⟩

/-- A cycle of each kind: RESET over GET_RESULT, no response, GET_RESULT, and GET_RAW_DATA in the cycle that stores the
last bit (P1's last cycles, R79). -/
theorem witness_PortsShowRegistersAndTheCyclesResponse :
    (∃ t, (given (done goodFrame) true 0b011#3 true).input.rst = true ∧
      step (given (done goodFrame) true 0b011#3 true) = .next t ∧ t.outputs.respCode = none) ∧
    (∃ t, (given (done goodFrame) false 0b101#3 true).input.cmd = 0b101#3 ∧
      step (given (done goodFrame) false 0b101#3 true) = .next t ∧ t.outputs.respRaw = none) ∧
    (∃ t, (given (driving 0#16) false 0b011#3 false).input.cmd = 0b011#3 ∧
      step (given (driving 0#16) false 0b011#3 false) = .next t ∧ t.outputs.respCode = some 0b01#2) ∧
    ∃ t, (given (listening .falling 447#16 0#6 lastBitMissing true) false 0b100#3 false).input.cmd = 0b100#3 ∧
      step (given (listening .falling 447#16 0#6 lastBitMissing true) false 0b100#3 false) = .next t ∧
      t.outputs.respRaw = some 0x028D00E776#40 ∧ t.outputs.respBitcnt = some 0#6 :=
  ⟨⟨_, rfl, rfl, by decide⟩, ⟨_, rfl, rfl, by decide⟩, ⟨_, rfl, rfl, by decide⟩, _, rfl, rfl, by decide, by decide⟩
/-- A held response of each kind. -/
theorem witness_Ports_held : { done goodFrame with resp := some (.result .timeout) }.resp = some (.result .timeout) ∧
    { done goodFrame with resp := some (.raw 0x028D00E776#40 41#6) }.resp = some (.raw 0x028D00E776#40 41#6) := ⟨rfl, rfl⟩

/-! ### Witnesses: encodings and whole-machine rules -/

theorem witness_DecodeAndEncodeAgree : (Instr.capFallBit 0xFFFF#16).wellFormed = true ∧
    (Instr.capRise 0#16).row.fits (.evt 0b11111#5 0xFFFF#16) = true ∧
    decode (.evt 0b11111#5 0xFFFF#16) = .ok (.capRise 0xFFFF#16) := ⟨rfl, by decide, rfl⟩
/-- A state in each phase meets the invariant. -/
theorem witness_invariant_in_each_phase : [State.reset, driving 0xC180#16, listening .rising 5#16 41#6 goodFrame false,
    done goodFrame, timedOut 0#6 goodFrame].all MachineInv = true := by decide
theorem witness_EveryStepKeepsTheInvariant : ∃ t, MachineInv (listening .falling 5#16 0#6 goodFrame true) = true ∧
    step (given (listening .falling 5#16 0#6 goodFrame true) false 0b010#3 false) = .next t := ⟨_, by decide, rfl⟩
theorem witness_ReachableStatesMeetTheRowOfTheirPhase : ∃ r t, Config.wf State.reset.cfg = true ∧
    exec .reset (given State.reset false 0b010#3 true) = .next r ∧ cycles 2 r = .next t ∧ t.phase = .driving :=
  ⟨_, _, by decide, rfl, rfl, by decide⟩
/-- Each clause of the phase table, at the counter values where the phase turns and one below. -/
theorem witness_PhaseMovesAsTheTransitionTable : MachineInv (driving 0xFFFF#16) = true ∧ MachineInv (driving 0xFFFE#16) = true ∧
    MachineInv (listening .falling 0xFFFF#16 0#6 [] true) = true ∧ selectedEdge .falling true false = true ∧
    MachineInv (listening .falling 0xFFFF#16 1#6 [] false) = true ∧ MachineInv (timedOut 41#6 []) = true ∧
    MachineInv (done []) = true ∧ MachineInv State.reset = true := by decide
theorem witness_TriggerReadOverridesTheCyclesEvent : ∃ t,
    (given (listening .falling 0x01BF#16 0#6 lastBitMissing true) false 0b010#3 false).input.rst = false ∧
    (given (listening .falling 0x01BF#16 0#6 lastBitMissing true) false 0b010#3 false).input.cmd = 0b010#3 ∧
    step (given (listening .falling 0x01BF#16 0#6 lastBitMissing true) false 0b010#3 false) = .next t := ⟨_, rfl, rfl, rfl⟩
/-- A finished conversion, for each of the three codes it can have. -/
theorem witness_AFinishedConversionStaysReadable :
    MachineInv (given (done goodFrame) false 0b001#3 false) = true ∧
    (∃ u, exec .getResult (given (done goodFrame) false 0b001#3 false) = .next u ∧ u.resp = some (.result .ok) ∧
      ∀ x ∈ u.inputs, x.rst = false ∧ x.cmd ≠ 0b010#3) ∧
    (∃ u, exec .getResult (done (bytes 2#8 0x8D#8 0#8 0xE7#8 0#8)) = .next u ∧ u.resp = some (.result .crcError)) ∧
    ∃ u, exec .getResult (timedOut 0#6 goodFrame) = .next u ∧ u.resp = some (.result .timeout) :=
  ⟨by decide, ⟨_, rfl, by decide, by decide⟩, ⟨_, rfl, by decide⟩, _, rfl, by decide⟩

/-! ### Witnesses: timing and termination -/

/-- A state with the given pulse length, and a passive host. -/
def pulse (n : Nat) : State :=
  { given State.reset false 0b011#3 false with cfg := { Config.default with startTicks := n } }

/-- The shortest and the longest pulse. -/
theorem witness_RequestPulseLastsStartTicksCycles :
    (∃ t, Config.wf (pulse 1).cfg = true ∧ exec .triggerRead (pulse 1) = .next t ∧ t.hostPassive = true) ∧
    ∃ t, Config.wf (pulse 65536).cfg = true ∧ exec .triggerRead (pulse 65536) = .next t ∧ t.hostPassive = true :=
  ⟨⟨_, by decide, rfl, by decide⟩, _, by decide, rfl, by decide⟩

/-- A line that stands still shows no edge, however long. -/
theorem noEdge_replicate (e : Edge) (x : CycleInput) (n : Nat) : noEdge e x.releasedLevel (List.replicate n x) = true := by
  induction n with
  | zero => rfl
  | succ n ih =>
    have still : ∀ p, selectedEdge e p p = false := by cases e <;> decide
    simp only [List.replicate_succ, noEdge, still, ih, Bool.not_false, Bool.and_self]

/-- `n` silent cycles with the line high, and then one with it low. -/
def quiet (n : Nat) : State :=
  { listening .falling 0#16 39#6 [] true with
    inputs := List.replicate n ⟨false, 0b000#3, .level true⟩ ++ [⟨false, 0b011#3, .level false⟩] }

theorem quiet_passive (n : Nat) : (quiet n).hostPassive = true := by
  simp [quiet, State.hostPassive, CycleInput.passive]

theorem quiet_length (n : Nat) : n ≤ (quiet n).inputs.length := by
  simp [quiet]

theorem quiet_noEdge (n : Nat) : noEdge (quiet n).edge (quiet n).linePrev ((quiet n).inputs.take n) = true := by
  rw [show (quiet n).inputs.take n = List.replicate n ⟨false, 0b000#3, .level true⟩ by simp [quiet]]
  exact noEdge_replicate .falling ⟨false, 0b000#3, .level true⟩ n

/-- A capture in the very next cycle, one after three, and the longest gap. -/
theorem witness_PulseWidthCountsTheCyclesBetween : (quiet 65535).run = true ∧ (quiet 65535).capEn = true ∧
    (quiet 65535).drive = false ∧ (quiet 65535).counter = 0#16 ∧ (quiet 65535).hostPassive = true ∧
    65535 ≤ (quiet 65535).inputs.length ∧ noEdge .falling true ((quiet 65535).inputs.take 65535) = true :=
  ⟨rfl, rfl, rfl, rfl, quiet_passive _, quiet_length _, quiet_noEdge _⟩
theorem witness_PulseWidth_selected : (quiet 0).lineIn = false ∧ ∃ u, cycles 3 (quiet 3) = .next u ∧
    selectedEdge u.edge u.linePrev u.lineIn = true := ⟨rfl, _, rfl, by decide⟩
theorem witness_SilenceWindowIsOneCounterPeriod : (quiet 65536).ovfEn = true ∧ (quiet 65536).hostPassive = true ∧
    65536 ≤ (quiet 65536).inputs.length ∧ noEdge .falling true ((quiet 65536).inputs.take 65536) = true :=
  ⟨rfl, quiet_passive _, quiet_length _, quiet_noEdge _⟩

/-! ### Witnesses: frames on the wire -/

/-- The high periods of the nominal payload `0x028D00E776`, most significant bit first (R89). -/
def nominalPulses : List (Word × Word) :=
  (List.range 40).map fun k => (799#16, if (0x028D00E776#40).getLsbD (39 - k) then 1119#16 else 447#16)

theorem witness_PartlyFilledBufferHoldsTheBitsSoFar : ∃ t, exec .triggerRead State.reset = .next t ∧
    nominalPulses.length = 40 ∧ (nominalPulses.take 39).length ≤ 40 ∧ ([] : List (Word × Word)).length < 40 :=
  ⟨_, rfl, by decide⟩
theorem witness_CompleteFrameLeavesThePayloadInTheBuffer : nominalPulses.length = 40 ∧
    ∀ k, k < 40 → classify State.reset.cfg (nominalPulses.getD k (0#16, 0#16)).2 = (0x028D00E776#40).getLsbD (39 - k) := by
  decide
/-- The lowest and the highest threshold of the statement, and readings at the ends of the range. -/
theorem witness_EveryReadingSurvivesTheRoundTrip : (0x8001#16) ≠ 0x8000#16 ∧ (0x7FFF#16) ≠ 0x8000#16 ∧
    447 ≤ (447#16).toNat ∧ (1118#16).toNat < 1119 ∧ 447 ≤ State.reset.cfg.threshold.toNat ∧
    State.reset.cfg.threshold.toNat < 1119 := by decide

/-! ### Witnesses: the event-level abstraction -/

/-- An INIT in mid-conversion at `CMAX`, one that ends the request pulse in its cycle, and a stopped state, each agreeing with
an abstraction that has another counter or another sample of the line. -/
theorem witness_TheEventLevelAbstractionAdmitsEveryRun :
    (∃ t, Agrees (given (listening .falling 0xFFFE#16 7#6 [] true) false 0b001#3 true)
        (given (listening .falling 3#16 7#6 [] false) false 0b001#3 true) ∧
      step (given (listening .falling 0xFFFE#16 7#6 [] true) false 0b001#3 true) = .next t ∧ t.run = false ∧
      t.counter = 0xFFFF#16) ∧
    (∃ t, Agrees (given (driving 0xFFFF#16) false 0b001#3 false) (given (driving 0#16) false 0b001#3 false) ∧
      cycles 2 (given (driving 0xFFFF#16) false 0b001#3 false) = .next t) ∧
    Agrees (done []) { done [] with linePrev := false } ∧ (done []).run = false :=
  ⟨⟨_, ⟨rfl, by decide⟩, rfl, by decide, by decide⟩, ⟨_, ⟨rfl, by decide⟩, rfl⟩, ⟨rfl, fun _ => rfl⟩, rfl⟩
/-- The abstraction makes that INIT with the counter it did not track (R113). -/
theorem test_abstract_init_in_mid_conversion :
    AbstractRun [.init] (listening .falling 3#16 7#6 [] true)
      { State.reset with phase := .idle, counter := 0xFFFF#16, bitcnt := 7#6 } :=
  .counter 0xFFFF#16 rfl (.operation 0b0001#4 rfl (.stop _))

/-! ### The sensor on the line -/

/-- R87, with a pulse of one cycle: TRIGGER_READ, the cycle that ends the pulse, one cycle released, and then the first
pull-down is captured with PulseWidth 1. -/
theorem test_sensor_begins_after_the_pulse :
    (Script.cycleScript [.triggerRead, .wait 3] [.high 1, .low 2] { State.reset with cfg := { Config.default with startTicks := 1 } }).map
      (fun b => (b.sensor, b.state.bitcnt, b.state.counter, b.state.edge)) =
    some (.playing [true], 40#6, 0#16, .rising) := by decide
/-- P1 begins with RESET from any state: one that RESET finds in the pulse does not begin the sensor (R87, 95_test_vectors). -/
theorem test_sensor_waits_after_a_reset_in_the_pulse :
    (Script.cycleScript [.reset, .init, .wait 2] [.low 9] (driving 0xFFFF#16)).map (fun b => (b.sensor, b.state.linePrev)) =
    some (.waiting, true) := by decide
/-- Each clause: the cycle before the end of the pulse, the one that ends it and one more; a cycle that runs OVF_START_END;
a RESET, an INIT and a running capture unit in place of it. -/
theorem witness_TheSensorBeginsWhenTheStartPulseIsOver :
    (let s := { State.reset with cfg := { Config.default with startTicks := 1 } }
     Config.wf s.cfg = true ∧ s.inputs = [] ∧ ([] : List (BitVec 4)).length < s.cfg.startTicks ∧
       [0b0011#4].length = s.cfg.startTicks ∧ s.cfg.startTicks ≤ [0b0011#4, 0b0111#4].length ∧
       ∀ w ∈ [0b0011#4, 0b0111#4], w = 0b0000#4 ∨ w = 0b0011#4 ∨ w = 0b0100#4 ∨ w = 0b0101#4 ∨ w = 0b0110#4 ∨ w = 0b0111#4) ∧
    (Script.benchCycle [true] 0b0001#4 ⟨.waiting, driving 0xFFFF#16⟩).map (·.sensor) = some (.playing [true]) ∧
    (Script.benchCycle [true] 0b0010#4 ⟨.waiting, driving 0xFFFF#16⟩).map (·.sensor) = some .waiting ∧
    (driving 0xFFFE#16).counter.toNat ≠ 65535 ∧ State.reset.run = false ∧ (listening .falling 0xFFFF#16 41#6 [] true).capEn = true ∧
    ∀ w ∈ [0b0001#4, 0b1010#4, 0b0000#4], w ≠ 0b0010#4 := by decide

end Sys2Proof.Tests
end

section
/-! The bits of the event dispatch word as conditions on the state, and the operation each word selects (spec 30_encoding
R74 to R77). -/

namespace Sys2Proof.Machine

open Sys2Proof

/-! ### The fields of the dispatch word -/

@[simp] theorem EventKind.bit_eq_true {k : EventKind} : k.bit = true ↔ k = .capture := by
  cases k <;> simp [EventKind.bit]

@[simp] theorem Edge.bit_eq_true {e : Edge} : e.bit = true ↔ e = .rising := by
  cases e <;> simp [Edge.bit]

@[simp] theorem inAcknowledgment_eq_true {s : State} : inAcknowledgment s = true ↔ 40 ≤ s.bitcnt.toNat := decide_eq_true_iff

@[simp] theorem atLastBit_eq_true {s : State} : atLastBit s = true ↔ s.bitcnt.toNat = 0 :=
  decide_eq_true_iff.trans BitVec.toNat_inj.symm

/-- R75: each bit of the dispatch word as a condition on the event and on the state. -/
theorem eventWord_bits_iff (k : EventKind) (s : State) :
    ((eventWord k s).getLsbD 4 = true ↔ k = .capture) ∧ (eventWord k s).getLsbD 3 = s.capEn ∧
    ((eventWord k s).getLsbD 2 = true ↔ s.edge = .rising) ∧ ((eventWord k s).getLsbD 1 = true ↔ 40 ≤ s.bitcnt.toNat) ∧
    ((eventWord k s).getLsbD 0 = true ↔ s.bitcnt.toNat = 0) := by
  obtain ⟨hk, ha, he, hg, hz⟩ := eventWord_bits k s
  rw [hk, ha, he, hg, hz]
  exact ⟨EventKind.bit_eq_true, rfl, Edge.bit_eq_true, inAcknowledgment_eq_true, atLastBit_eq_true⟩

/-! ### The selected operation -/

/-- An EVT word decodes to the instruction of the event operation its bits select. -/
theorem decode_evt_eq_ok {w : BitVec 5} {pw : Word} {i : Instr} :
    decode (.evt w pw) = .ok i ↔ ∃ op, decodeEventOp w = .ok op ∧ op.toInstr pw = i := by
  cases h : decodeEventOp w <;> simp [decode, h]

/-- The event path and the dispatch of `exec` give an event operation one meaning. -/
theorem exec_toInstr (op : EventOp) (pw : Word) (s : State) : exec (op.toInstr pw) s = runEventOp op pw s := by
  cases op <;> rfl

/-- An event runs the instruction of the operation its dispatch word selects (R75, R76). -/
theorem raiseEvent_of_decodeEventOp {k : EventKind} {s : State} {op : EventOp} (pw : Word)
    (h : decodeEventOp (eventWord k s) = .ok op) : raiseEvent k pw s = exec (op.toInstr pw) s := by
  rw [exec_toInstr, raiseEvent, h]

/-- The overflow rows of R76. -/
theorem raiseEvent_overflow_eq_exec (pw : Word) (s : State) :
    raiseEvent .overflow pw s = exec (if s.capEn = true then .ovfTimeout else .ovfStartEnd) s := by
  rw [raiseEvent_of_decodeEventOp pw (decode_overflow s)]
  split <;> rfl

/-- The capture rows of R76, on numbers: with the capture unit armed, `EDGE` and `BITCNT` select the operation. -/
theorem raiseEvent_capture_eq_exec (pw : Word) (s : State) (armed : s.capEn = true) :
    raiseEvent .capture pw s = exec (if s.edge = .rising then .capRise pw
      else if 40 ≤ s.bitcnt.toNat then .capFallAck pw
      else if s.bitcnt.toNat = 0 then .capFallLast pw else .capFallBit pw) s := by
  have zero_iff : s.bitcnt = 0#6 ↔ s.bitcnt.toNat = 0 := BitVec.toNat_inj.symm
  rw [raiseEvent_of_decodeEventOp pw (decode_capture s armed)]
  simp only [zero_iff, apply_ite (EventOp.toInstr pw)]
  rfl

end Sys2Proof.Machine

open Sys2Proof Sys2Proof.Machine

/-- Settles O10: the bits, then the decoded operation of any event, then the rows of R76, each of which is a branch of
`raiseEvent_overflow_eq_exec` or `raiseEvent_capture_eq_exec`. -/
theorem eventRunsTheOperationItsWordSelects : Obligations.EventRunsTheOperationItsWordSelects := by
  refine ⟨eventWord_bits_iff, ?decoded, fun pw s => ⟨?startEnd, ?timeout, ?rise, ?ack, ?bit, ?last⟩⟩
  case decoded =>
    intro k pw s i hdecode
    obtain ⟨op, hop, rfl⟩ := decode_evt_eq_ok.mp hdecode
    exact raiseEvent_of_decodeEventOp pw hop
  case startEnd =>
    intro unarmed
    simp [raiseEvent_overflow_eq_exec, unarmed]
  case timeout =>
    intro armed
    simp [raiseEvent_overflow_eq_exec, armed]
  case rise =>
    intro armed rising
    simp [raiseEvent_capture_eq_exec, armed, rising]
  case ack =>
    intro armed falling acknowledging
    simp [raiseEvent_capture_eq_exec, armed, falling, acknowledging]
  case bit =>
    intro armed falling pos le39
    have notAck : ¬ 40 ≤ s.bitcnt.toNat := by omega
    have notLast : s.bitcnt.toNat ≠ 0 := by omega
    rw [raiseEvent_capture_eq_exec pw s armed, if_neg (by simp [falling]), if_neg notAck, if_neg notLast]
  case last =>
    intro armed falling zero
    simp [raiseEvent_capture_eq_exec, armed, falling, zero]

/-- Settles O16: NOP and each of the three reserved codes give the state they are applied to (R74, R182). -/
theorem nopAndReservedCodesChangeNothing : Obligations.NopAndReservedCodesChangeNothing :=
  fun _ => ⟨rfl, rfl, rfl, rfl⟩
end

section
/-! TICK and the cycle: what an event or a TICK keeps, the edge detector as conditions, and the line level of an ignored
edge (spec 40_timer_gpio R103 to R112). -/

namespace Sys2Proof.Machine

open Sys2Proof

/-! ### Events -/

/-- Every event completes (R201) and writes none of the parameters, the inputs and the response. -/
theorem raiseEvent_completes (k : EventKind) (pw : Word) (s : State) :
    ∃ t, raiseEvent k pw s = .next t ∧ t.cfg = s.cfg ∧ t.inputs = s.inputs ∧ t.resp = s.resp := by
  rcases raiseEvent_cases k pw s with ⟨-, -, h⟩ | ⟨-, -, h⟩ | ⟨-, -, h⟩ | ⟨-, -, -, h⟩ | ⟨-, -, -, -, h⟩ |
    ⟨-, -, -, -, -, h⟩ | ⟨-, -, -, -, h⟩
  all_goals exact ⟨_, h, rfl, rfl, rfl⟩

/-- An armed capture event keeps the counter (R145 writes it nowhere) and inverts `EDGE` (R151). -/
theorem raiseEvent_capture_counter_edge (pw : Word) (s : State) (armed : s.capEn = true) :
    ∃ t, raiseEvent .capture pw s = .next t ∧ t.counter = s.counter ∧ t.edge = s.edge.toggled := by
  rcases raiseEvent_cases .capture pw s with ⟨hk, -⟩ | ⟨hk, -⟩ | ⟨-, unarmed, -⟩ | ⟨-, -, he, h⟩ | ⟨-, -, he, -, h⟩ |
    ⟨-, -, he, -, -, h⟩ | ⟨-, -, he, -, h⟩
  · cases hk
  · cases hk
  · simp [armed] at unarmed
  all_goals exact ⟨_, h, rfl, by rw [he]; rfl⟩

/-- An overflow event neither reads nor writes `LINE_PREV`. -/
theorem raiseEvent_overflow_sampleLine (pw : Word) (l : Bool) (s : State) :
    raiseEvent .overflow pw (s.sampleLine l) = andThen (raiseEvent .overflow pw s) fun t => .next (t.sampleLine l) := by
  rw [raiseEvent_overflow_eq_exec, raiseEvent_overflow_eq_exec, sampleLine_capEn]
  cases s.capEn <;> rfl

/-! ### The edge detector -/

/-- The two ways an edge is the selected one (R104). -/
theorem selectedEdge_eq_true {e : Edge} {linePrev l : Bool} : selectedEdge e linePrev l = true ↔
    e = .rising ∧ linePrev = false ∧ l = true ∨ e = .falling ∧ linePrev = true ∧ l = false := by
  cases e <;> simp [selectedEdge]

/-- A line that stands still shows no edge. -/
@[simp] theorem selectedEdge_self (e : Edge) (l : Bool) : selectedEdge e l l = false := by
  cases e <;> simp [selectedEdge]

/-! ### TICK -/

/-- Every TICK completes (R201) and writes none of the parameters, the inputs and the response. -/
theorem execTick_completes (l : Bool) (s : State) :
    ∃ t, execTick l s = .next t ∧ t.cfg = s.cfg ∧ t.inputs = s.inputs ∧ t.resp = s.resp := by
  rcases execTick_cases l s with ⟨-, h⟩ | ⟨-, -, -, h⟩ | ⟨-, -, -, -, h⟩ | ⟨-, -, -, -, h⟩ | ⟨-, -, -, h⟩ <;> rw [h]
  case inr.inl | inr.inr.inl => exact raiseEvent_completes _ _ _
  all_goals exact ⟨_, rfl, rfl, rfl, rfl⟩

/-- R105: with the counter stopped, or with no capture, TICK is the TICK of a line that stands still, and then
`LINE_PREV` takes the level. -/
theorem execTick_of_ignored_edge (l : Bool) (s : State)
    (ignored : s.run = false ∨ (s.capEn && selectedEdge s.edge s.linePrev l) = false) :
    execTick l s = andThen (execTick s.linePrev s) fun t => .next (t.sampleLine l) := by
  have still : (s.capEn && selectedEdge s.edge s.linePrev s.linePrev) = false := by simp
  rcases execTick_cases l s with ⟨stopped, h⟩ | ⟨hr, armed, sel, -⟩ | ⟨hr, -, hc, ho, h⟩ | ⟨hr, -, hc, ho, h⟩ |
    ⟨hr, -, hc, h⟩
  · rw [h, execTick_stopped _ s stopped]; rfl
  · simp [hr, armed, sel] at ignored
  · rw [h, execTick_wrap _ s hr still hc ho, ← raiseEvent_overflow_sampleLine]; rfl
  · rw [h, execTick_silentWrap _ s hr still hc ho]; rfl
  · rw [h, execTick_count _ s hr still hc]; rfl

/-! ### Commands -/

/-- GET_RESULT answers with the code of the first test that applies, and so always answers (R160). -/
theorem execGetResult_completes (s : State) : ∃ t, execGetResult s = .next t := by
  unfold execGetResult
  split <;> exact ⟨_, rfl⟩

/-- Every command completes in every state (R201). -/
theorem exec_decodeCommand_completes (cmd : BitVec 3) (s : State) : ∃ t, exec (decodeCommand cmd) s = .next t := by
  by_cases isGetResult : cmd = 0b011#3
  · rw [isGetResult]
    exact execGetResult_completes s
  · unfold decodeCommand
    split_ifs <;> exact ⟨_, rfl⟩

end Sys2Proof.Machine

open Sys2Proof Sys2Proof.Machine

/-- Settles O4: with `rst = 1` the cycle is `runCycle_reset`; with `rst = 0` it is `runCycle_command`, where TICK and the
command complete, and each code's clause is what that code decodes to. -/
theorem cycleRunsResetAloneOrTickThenCommand : Obligations.CycleRunsResetAloneOrTickThenCommand := by
  intro s
  cases hrst : s.input.rst with
  | true => exact ⟨_, runCycle_reset s hrst, fun _ => ⟨rfl, _, rfl, rfl⟩, nofun⟩
  | false =>
    obtain ⟨u, hu, -, -, hresp⟩ := execTick_completes s.lineIn s.clearResponse
    obtain ⟨v, hv⟩ := exec_decodeCommand_completes s.input.cmd u
    have htick : exec (.tick s.lineIn) s.clearResponse = .next u := hu
    have hstep : step s = .next v.endCycle := by
      rw [step_eq, runCycle_command s hrst, htick, andThen_next, hv, andThen_next]
    have runs {c : BitVec 3} (hc : s.input.cmd = c) : exec (decodeCommand c) u = .next v := hc ▸ hv
    have nothing {c : BitVec 3} (hc : s.input.cmd = c) (h : exec (decodeCommand c) u = .next u) : v = u :=
      Host.Outcome.next.inj ((runs hc).symm.trans h)
    refine ⟨v.endCycle, hstep, nofun, fun _ => ⟨u, v, hu, hresp, rfl, fun hc => nothing hc rfl, fun hc => runs hc,
      fun hc => runs hc, fun hc => runs hc, fun hc => runs hc, ?reserved⟩⟩
    rintro (hc | hc | hc) <;> exact nothing hc rfl

/-- Settles O7: each clause is a case of TICK, with `CMAX` read as the number 65535. -/
theorem tickAdvancesTheCounter : Obligations.TickAdvancesTheCounter := by
  intro s l
  refine ⟨execTick_stopped l s, fun running noCapture => ?_⟩
  have quiet : (s.capEn && selectedEdge s.edge s.linePrev l) = false := by simpa using noCapture
  have atCmax : s.counter = cmax ↔ s.counter.toNat = 65535 := BitVec.toNat_inj.symm
  refine ⟨fun below => ?counts, fun top => ⟨?wraps, ?wrapsSilently⟩⟩
  case counts =>
    have notCmax : s.counter ≠ cmax := by rw [Ne, atCmax]; omega
    refine ⟨_, execTick_count l s running quiet notCmax, rfl, ?_⟩
    rw [loadCounter_counter, BitVec.toNat_add]
    exact Nat.mod_eq_of_lt (Nat.succ_lt_succ below)
  case wraps => exact execTick_wrap l s running quiet (atCmax.mpr top)
  case wrapsSilently => exact execTick_silentWrap l s running quiet (atCmax.mpr top)

/-- Settles O8: TICK raises the capture event on the counter it has just cleared, and the event keeps that 0 and inverts
`EDGE`. -/
theorem captureEventTakesAndResetsTheCounter : Obligations.CaptureEventTakesAndResetsTheCounter := by
  intro s l running armed edge
  have captured : exec (.tick l) s = raiseEvent .capture s.counter (s.sampleLine l |>.loadCounter 0#16) :=
    execTick_capture l s running armed (selectedEdge_eq_true.mpr edge)
  refine ⟨captured, ?_⟩
  rw [captured]
  exact raiseEvent_capture_counter_edge _ _ armed

/-- Settles O9: with `RUN = 0`, with `CAP_EN = 0`, or at the level opposite to the selected edge the capture unit
does not fire, so `execTick_of_ignored_edge` applies. -/
theorem ignoredEdgesLeaveNoTrace : Obligations.IgnoredEdgesLeaveNoTrace := by
  intro s l notActing
  have ignored : s.run = false ∨ (s.capEn && selectedEdge s.edge s.linePrev l) = false := by
    rcases notActing with stopped | unarmed | ⟨rising, low⟩ | ⟨falling, high⟩
    · exact .inl stopped
    · exact .inr (by rw [unarmed, Bool.false_and])
    · exact .inr (by simp [selectedEdge, rising, low])
    · exact .inr (by simp [selectedEdge, falling, high])
  obtain ⟨t, still, -⟩ := execTick_completes s.linePrev s
  refine ⟨t, still, (execTick_of_ignored_edge l s ignored).trans ?_⟩
  rw [still]
  rfl
end

section
/-! The start pulse: the state after TRIGGER_READ (spec 41_start_pulse_driver R120 to R124). -/

namespace Sys2Proof.Machine

open Sys2Proof

/-- Every cell of the zeroed buffer reads 0 (R51). -/
theorem Memory.read_zeroed (a : Nat) : Memory.zeroed.read a = 0#8 := by
  rw [Memory.zeroed_eq, Memory.read_nil]

/-- R120, R123: TRIGGER_READ writes its eight registers in every state, without reading any of them, and nothing else. -/
theorem exec_triggerRead (s : State) : exec .triggerRead s = .next { s with
    bitcnt := bitcntStart, buf := Memory.zeroed, ovfEn := true, capEn := false, drive := true,
    counter := preload s.cfg, run := true, phase := .driving } := rfl

end Sys2Proof.Machine

open Sys2Proof Sys2Proof.Machine

/-- Settles O14: the state is `exec_triggerRead`'s, its cells are those of the zeroed buffer, and its counter is
`PRELOAD`. -/
theorem triggerReadStartsAConversion : Obligations.TriggerReadStartsAConversion :=
  fun s => ⟨_, exec_triggerRead s, rfl, Memory.read_zeroed, preload_toNat s.cfg⟩
end

section
/-! The overflow event: the states that the end of the request pulse and the silence timeout leave, and the answer
GET_RESULT gives to the timeout mark (spec 42_overflow_handler R131, R132). -/

namespace Sys2Proof.Machine

open Sys2Proof

/-! ### GET_RESULT -/

/-- R162: a stopped counter that holds the sentinel is the timeout mark, whatever the buffer holds. -/
theorem resultCode_eq_timeout {s : State} (stopped : s.run = false) (marked : s.counter = sentinel) :
    resultCode s = .timeout := by
  simp [resultCode, stopped, marked]

/-- R160: GET_RESULT completes in every state and answers with the result code of that state. -/
theorem exec_getResult_resp {s : State} {c : ResultCode} (code : resultCode s = c) :
    ∃ u, exec .getResult s = .next u ∧ u.resp = some (.result c) := by
  change ∃ u, execGetResult s = .next u ∧ u.resp = some (.result c)
  rw [execGetResult, code]
  cases c <;> exact ⟨_, rfl, rfl⟩

/-! ### The two operations -/

/-- R131: OVF_START_END writes its five registers in every state, without reading any of them, and nothing else. -/
theorem exec_ovfStartEnd (s : State) : exec .ovfStartEnd s = .next { s with
    drive := false, counter := 0#16, edge := .falling, capEn := true, phase := .listening } := rfl

/-- R132: OVF_TIMEOUT writes its five registers in every state, without reading any of them, and nothing else. -/
theorem exec_ovfTimeout (s : State) : exec .ovfTimeout s = .next { s with
    ovfEn := false, capEn := false, run := false, counter := sentinel, phase := .timedOut } := rfl

end Sys2Proof.Machine

open Sys2Proof Sys2Proof.Machine

/-- Settles O23: the state is `exec_ovfStartEnd`'s. -/
theorem ovfStartEndReleasesAndArms : Obligations.OvfStartEndReleasesAndArms := exec_ovfStartEnd

/-- Settles O24: the state is `exec_ovfTimeout`'s; its counter is stopped on the sentinel, so the result code that
GET_RESULT answers with is `timeout`. -/
theorem ovfTimeoutStopsAndMarks : Obligations.OvfTimeoutStopsAndMarks :=
  fun s => ⟨_, exec_ovfTimeout s, rfl, exec_getResult_resp (resultCode_eq_timeout rfl rfl)⟩
end

section
/-! The capture event: the state each of its four operations leaves, the stored cell as a number, and the handler of R145
as one of the four (spec 43_capture_decoder R141 to R149). -/

namespace Sys2Proof.Machine

open Sys2Proof

/-! ### The classified bit and the stored cell -/

/-- R148: the bit is 0 up to the threshold, the threshold included. -/
theorem classify_eq_false_iff {c : Config} {pw : Word} : classify c pw = false ↔ pw.toNat ≤ c.threshold.toNat := by
  rw [← Bool.not_eq_true, classify_iff, Nat.not_lt]

/-- The classified bit as a number. -/
theorem classify_toNat (c : Config) (pw : Word) :
    (classify c pw).toNat = if c.threshold.toNat < pw.toNat then 1 else 0 := by
  simp only [Bool.toNat, Bool.cond_eq_ite, classify_iff]

/-- The cell R145 writes out is the shifted one of R147. -/
theorem shiftIn_classify (x : Byte) (c : Config) (pw : Word) :
    shiftIn x (classify c pw) = (x <<< 1) ||| (if c.threshold < pw then 1#8 else 0#8) := by
  have decides : classify c pw = decide (c.threshold < pw) := BitVec.ult_eq_decide
  by_cases h : c.threshold < pw <;> simp [shiftIn, decides, h]

/-- R147, R148: what the cell that takes the bit reads afterwards, as a number. -/
theorem Memory.read_write_shiftIn_toNat {m : Memory} (wf : m.wf = true) (i : Nat) (c : Config) (pw : Word) :
    ((m.write i (shiftIn (m.read i) (classify c pw))).read i).toNat =
      2 * (m.read i).toNat % 256 + (if c.threshold.toNat < pw.toNat then 1 else 0) := by
  rw [Memory.read_write_same m i _ wf, shiftIn_toNat, classify_toNat]

/-! ### The bit counter -/

/-- R152: `BITCNT - 1` does not borrow where it is computed. -/
theorem bitcnt_sub_one_toNat {n : BitCount} (pos : 1 ≤ n.toNat) : (n - 1#6).toNat = n.toNat - 1 :=
  BitVec.toNat_sub_of_le (BitVec.le_def.mpr pos)

/-- A bit counter that reads at least 1 is not the one that cannot step. -/
theorem bitcnt_ne_zero {n : BitCount} (pos : 1 ≤ n.toNat) : n ≠ 0#6 := by
  rintro rfl
  exact absurd pos (by decide)

/-! ### The four operations -/

/-- R141: CAP_RISE writes `EDGE` in every state and nothing else. -/
theorem exec_capRise (pw : Word) (s : State) : exec (.capRise pw) s = .next { s with edge := .falling } := rfl

/-- R142: where `BITCNT` can step, CAP_FALL_ACK steps it, selects the rising edge, and writes nothing else. -/
theorem exec_capFallAck (pw : Word) {s : State} (pos : 1 ≤ s.bitcnt.toNat) :
    exec (.capFallAck pw) s = .next { s with bitcnt := s.bitcnt - 1#6, edge := .rising } := by
  change execCapFallAck pw s = _
  rw [execCapFallAck, decrementBitcnt_of_ne s (bitcnt_ne_zero pos)]
  rfl

/-- R143: with `BITCNT` from 1 to 39, CAP_FALL_BIT writes one cell, steps `BITCNT` and selects the rising edge. -/
theorem exec_capFallBit (pw : Word) {s : State} (pos : 1 ≤ s.bitcnt.toNat) (lt : s.bitcnt.toNat < ackLimit) :
    exec (.capFallBit pw) s = .next { s with
      buf := s.buf.write (byteIndex s.bitcnt) (shiftIn (s.buf.read (byteIndex s.bitcnt)) (classify s.cfg pw))
      bitcnt := s.bitcnt - 1#6, edge := .rising } := by
  have steps : ∀ m : Memory, (s.loadBuf m).bitcnt ≠ 0#6 := fun _ => bitcnt_ne_zero pos
  change execCapFallBit pw s = _
  rw [execCapFallBit, storeBit, storeCell_of_lt _ s (byteIndex_lt lt), andThen_next, decrementBitcnt_of_ne _ (steps _)]
  rfl

/-- R144: CAP_FALL_LAST writes cell 0, ends the conversion in `Done` and selects the rising edge, in every state. -/
theorem exec_capFallLast (pw : Word) (s : State) :
    exec (.capFallLast pw) s = .next { s with
      buf := s.buf.write 0 (shiftIn (s.buf.read 0) (classify s.cfg pw))
      ovfEn := false, capEn := false, run := false, phase := .done, edge := .rising } := by
  change execCapFallLast pw s = _
  rw [execCapFallLast, storeBit, storeCell_of_lt _ s (by decide)]
  rfl

/-! ### The end of the frame -/

/-- R160: a stopped counter without the timeout mark leaves the answer to the checksum. -/
theorem resultCode_of_unmarked {s : State} (stopped : s.run = false) (unmarked : s.counter ≠ sentinel) :
    resultCode s = .ok ∨ resultCode s = .crcError := by
  by_cases sums : checksum s.buf = s.buf.read 0 <;> simp [resultCode, stopped, unmarked, sums]

/-- R106, R144: the falling edge that ends the last bit runs CAP_FALL_LAST on the counter TICK has just cleared. -/
theorem exec_tick_last_fall {s : State} (running : s.run = true) (armed : s.capEn = true) (falling : s.edge = .falling)
    (high : s.linePrev = true) (last : s.bitcnt.toNat = 0) :
    exec (.tick false) s = exec (.capFallLast s.counter) (s.sampleLine false |>.loadCounter 0#16) := by
  have sel : selectedEdge s.edge s.linePrev false = true := selectedEdge_eq_true.mpr (.inr ⟨falling, high, rfl⟩)
  change execTick false s = _
  rw [execTick_capture false s running armed sel,
    raiseEvent_capture_eq_exec _ (s.sampleLine false |>.loadCounter 0#16) armed]
  simp [falling, last]

end Sys2Proof.Machine

open Sys2Proof Sys2Proof.Machine

/-- Settles O11: each operation's state is a branch of the handler, for the two tests split as the dispatch splits
`BITCNT` on entry. -/
theorem captureEventIsTheWholeHandler : Obligations.CaptureEventIsTheWholeHandler := by
  intro s pw armed
  rw [raiseEvent_capture_eq_exec pw s armed]
  cases edge : s.edge with
  | rising =>
    simp [exec_capRise, captureHandler, edge]
  | falling =>
    by_cases ack : 40 ≤ s.bitcnt.toNat
    · have pos : 1 ≤ s.bitcnt.toNat := by omega
      have notStored : ¬ s.bitcnt.toNat < 40 := by omega
      simp [exec_capFallAck pw pos, captureHandler, edge, ack, notStored, bitcnt_ne_zero pos]
    · have stored : s.bitcnt.toNat < 40 := by omega
      by_cases last : s.bitcnt.toNat = 0
      · have zero : s.bitcnt = 0#6 := BitVec.eq_of_toNat_eq last
        simp [exec_capFallLast, captureHandler, edge, zero, shiftIn_classify]
      · have pos : 1 ≤ s.bitcnt.toNat := by omega
        simp [exec_capFallBit pw pos stored, captureHandler, edge, ack, last, stored, bitcnt_ne_zero pos,
          shiftIn_classify, byteIndex]

/-- Settles O27: the state is `exec_capFallBit`'s; the cell `BITCNT div 8` is the one it writes. -/
theorem capFallBitStoresOneBit : Obligations.CapFallBitStoresOneBit :=
  fun s pw wf pos le39 => ⟨_, exec_capFallBit pw pos (Nat.lt_succ_of_le le39), rfl, bitcnt_sub_one_toNat pos,
    Memory.read_write_shiftIn_toNat wf _ s.cfg pw, fun a other => Memory.read_write_other s.buf _ a _ wf other⟩

/-- Settles O28: the state is `exec_capFallLast`'s; after the raising TICK it is that state with the counter at 0, which is
not the timeout mark. -/
theorem capFallLastEndsTheFrame : Obligations.CapFallLastEndsTheFrame := by
  intro s pw wf
  refine ⟨_, exec_capFallLast pw s, rfl, Memory.read_write_shiftIn_toNat wf 0 s.cfg pw,
    fun a other => Memory.read_write_other s.buf 0 a _ wf other, ?raised⟩
  intro running armed falling high last
  exact ⟨_, (exec_tick_last_fall running armed falling high last).trans (exec_capFallLast _ _), rfl, rfl, rfl,
    resultCode_of_unmarked rfl (show (0#16 : Word) ≠ sentinel by decide)⟩

/-- Settles O25: the state is `exec_capRise`'s. -/
theorem capRiseOnlyFlipsTheEdge : Obligations.CapRiseOnlyFlipsTheEdge := fun s pw => exec_capRise pw s

/-- Settles O26: the state is `exec_capFallAck`'s, and `BITCNT >= 40` can step. -/
theorem capFallAckOnlyCounts : Obligations.CapFallAckOnlyCounts := by
  intro s pw acknowledging
  have pos : 1 ≤ s.bitcnt.toNat := by omega
  exact ⟨_, exec_capFallAck pw pos, rfl, bitcnt_sub_one_toNat pos⟩

/-- Settles O30: the classifier compares numbers, so each clause is an inequality on them. -/
theorem classifierIsStrictAtTheThreshold : Obligations.ClassifierIsStrictAtTheThreshold := by
  refine ⟨classify_iff, fun c => classify_eq_false_iff.mpr le_rfl, ?below, ?above, ?default⟩
  case below =>
    intro c pw h
    exact classify_eq_false_iff.mpr (by omega)
  case above =>
    intro c pw h
    exact (classify_iff c pw).mpr (by omega)
  case default =>
    intro c h
    rw [classify_eq_false_iff, classify_eq_false_iff, classify_iff, h]
    decide
end

section
/-! The readout: each result code as a condition on the state, the state that GET_RESULT and GET_RAW_DATA leave, the
temperature field as a signed number, and the checksum of a corrupted buffer (spec 44_result_decoder R160 to R170). -/

namespace Sys2Proof.Machine

open Sys2Proof

/-! ### The result code -/

/-- R161: a running counter is the busy mark, whatever the rest of the state. -/
theorem resultCode_eq_ongoing {s : State} (running : s.run = true) : resultCode s = .ongoing := by
  simp [resultCode, running]

/-- R160: past the first two tests, the checksum alone refuses the frame. -/
theorem resultCode_eq_crcError_iff {s : State} (stopped : s.run = false) (unmarked : s.counter ≠ sentinel) :
    resultCode s = .crcError ↔ checksum s.buf ≠ s.buf.read 0 := by
  simp [resultCode, stopped, unmarked]

/-- R160: `ok` is what is left when none of the three other tests applies. -/
theorem resultCode_eq_ok_iff {s : State} :
    resultCode s = .ok ↔ s.run = false ∧ s.counter ≠ sentinel ∧ checksum s.buf = s.buf.read 0 := by
  unfold resultCode
  split_ifs <;> simp_all

/-- The timeout mark as a number (R7). -/
theorem counter_eq_sentinel_iff {s : State} : s.counter = sentinel ↔ s.counter.toNat = 65535 := BitVec.toNat_inj.symm

/-- R163: the checksum test on numbers. -/
theorem checksum_eq_read_zero_iff (m : Memory) : checksum m = m.read 0 ↔
    ((m.read 4).toNat + (m.read 3).toNat + (m.read 2).toNat + (m.read 1).toNat) % 256 = (m.read 0).toNat := by
  rw [← BitVec.toNat_inj, checksum_toNat]

/-! ### The reading commands -/

/-- R160, R168: a GET_RESULT that does not answer `ok` writes nothing but its answer. -/
theorem exec_getResult_of_ne_ok {s : State} {c : ResultCode} (code : resultCode s = c) (notOk : c ≠ .ok) :
    exec .getResult s = .next { s with resp := some (.result c) } := by
  change execGetResult s = _
  rw [execGetResult, code]
  cases c with
  | ok => exact absurd rfl notOk
  | ongoing | crcError | timeout => rfl

/-- R160, R164: a GET_RESULT that answers `ok` writes the two fields of the reading and its answer. -/
theorem exec_getResult_of_ok {s : State} (code : resultCode s = .ok) :
    exec .getResult s = .next { s with
      tempOut := signMagnitude (tempField s.buf), rhOut := rhField s.buf, resp := some (.result .ok) } := by
  change execGetResult s = _
  rw [execGetResult, code]
  rfl

/-- R170: GET_RAW_DATA writes its answer in every state and nothing else. -/
theorem exec_getRawData (s : State) :
    exec .getRawData s = .next { s with resp := some (.raw (payloadWord s.buf) s.bitcnt) } := rfl

/-! ### The signed field -/

/-- Bit 15 is the sign of a 16-bit field: it is set from 32768 on. -/
theorem half_getLsbD_fifteen (m : Half) : m.getLsbD 15 = decide (32768 ≤ m.toNat) :=
  (BitVec.msb_eq_getLsbD_last m).symm.trans (BitVec.msb_eq_decide m)

/-- The magnitude is the field without its sign bit, and never negative as a signed number. -/
theorem magnitude_toInt (m : Half) :
    ((m.extractLsb' 0 15).setWidth 16).toInt = ((m.toNat % 32768 : Nat) : Int) := by
  have value : ((m.extractLsb' 0 15).setWidth 16).toNat = m.toNat % 32768 := by
    rw [BitVec.toNat_setWidth, BitVec.extractLsb'_toNat, Nat.shiftRight_zero]
    exact Nat.mod_eq_of_lt (by omega)
  rw [BitVec.toInt_eq_toNat_of_lt (by omega), value]

/-- R165, R166: the value of a sign-magnitude field. Its magnitude is below 32768, so the negation does not overflow. -/
theorem signMagnitude_toInt (m : Half) : (signMagnitude m).toInt =
    if m.toNat < 32768 then (m.toNat : Int) else -((m.toNat : Int) - 32768) := by
  have magnitude := magnitude_toInt m
  rw [signMagnitude, half_getLsbD_fifteen]
  by_cases positive : m.toNat < 32768
  · rw [if_neg (by simpa using positive), if_pos positive, magnitude, Nat.mod_eq_of_lt positive]
  · have notMin : (m.extractLsb' 0 15).setWidth 16 ≠ BitVec.intMin 16 := by
      intro h
      have negative : (BitVec.intMin 16).toInt < 0 := by decide
      rw [← h, magnitude] at negative
      omega
    rw [if_pos (by simpa using positive), if_neg positive, BitVec.toInt_neg_of_ne_intMin notMin, magnitude]
    omega

/-- R165: the temperature by its two cells, the sign in the top bit of the high one. -/
theorem signMagnitude_tempField_toInt (m : Memory) : (signMagnitude (tempField m)).toInt =
    if 128 ≤ (m.read 2).toNat then -(256 * ((m.read 2).toNat - 128 : Int) + (m.read 1).toNat)
    else 256 * ((m.read 2).toNat : Int) + (m.read 1).toNat := by
  have lowByte := (m.read 1).isLt
  rw [signMagnitude_toInt, tempField, joinBytes_toNat]
  split_ifs <;> omega

/-! ### Corrupted and empty buffers -/

/-- R163: one changed cell breaks the equality of the sum and the check byte: the changed one is either the check byte
or a summand of the sum. -/
theorem checksum_write_ne {m : Memory} {a : Nat} {v : Byte} (wf : m.wf = true) (sums : checksum m = m.read 0)
    (cell : a < 5) (changed : v ≠ m.read a) : checksum (m.write a v) ≠ (m.write a v).read 0 := by
  have reads (b : Nat) : (m.write a v).read b = if b = a then v else m.read b := Memory.read_write m a b v wf
  rw [checksum] at sums ⊢
  simp only [reads]
  obtain rfl | summand := Nat.eq_zero_or_pos a
  · simpa [sums] using changed.symm
  · interval_cases a
    all_goals simpa [← sums] using changed

/-- A buffer whose cells are all 0 holds the check byte of its own sum (R163) and the reading 0 and 0. -/
theorem fields_of_read_eq_zero {m : Memory} (empty : ∀ a, m.read a = 0#8) :
    checksum m = m.read 0 ∧ signMagnitude (tempField m) = 0#16 ∧ rhField m = 0#16 := by
  simp only [checksum, tempField, rhField, empty]
  decide

end Sys2Proof.Machine

open Sys2Proof Sys2Proof.Machine

/-- Settles O17: each clause is a case of the result code, with the sentinel and the checksum read as numbers; on `ok` the
state is `exec_getResult_of_ok`'s. -/
theorem getResultReportsTheFirstThatApplies : Obligations.GetResultReportsTheFirstThatApplies := by
  intro s
  refine ⟨fun running => ?ongoing, fun stopped marked => ?timeout, fun stopped unmarked differs => ?crcError,
    fun stopped unmarked agrees => ?ok⟩
  case ongoing => exact exec_getResult_of_ne_ok (resultCode_eq_ongoing running) nofun
  case timeout =>
    exact exec_getResult_of_ne_ok (resultCode_eq_timeout stopped (counter_eq_sentinel_iff.mpr marked)) nofun
  case crcError =>
    have refused : checksum s.buf ≠ s.buf.read 0 := mt (checksum_eq_read_zero_iff s.buf).mp differs
    exact exec_getResult_of_ne_ok
      ((resultCode_eq_crcError_iff stopped (mt counter_eq_sentinel_iff.mp unmarked)).mpr refused) nofun
  case ok =>
    have code : resultCode s = .ok := resultCode_eq_ok_iff.mpr
      ⟨stopped, mt counter_eq_sentinel_iff.mp unmarked, (checksum_eq_read_zero_iff s.buf).mpr agrees⟩
    exact ⟨_, exec_getResult_of_ok code, rfl, joinBytes_toNat (s.buf.read 4) (s.buf.read 3),
      signMagnitude_tempField_toInt s.buf⟩

/-- Settles O19: the test on numbers, `checksum_write_ne` for one cell, a cell raised by 1 and another lowered by 1 for
two, and the reading of the empty buffer. -/
theorem checksumRejectsEverySingleCorruption : Obligations.ChecksumRejectsEverySingleCorruption := by
  refine ⟨?test, ?single, ?cancelling, ?empty⟩
  case test =>
    intro s stopped unmarked
    rw [resultCode_eq_crcError_iff stopped (mt counter_eq_sentinel_iff.mp unmarked)]
    exact not_congr (checksum_eq_read_zero_iff s.buf)
  case single =>
    intro s a v wf code cell changed
    obtain ⟨stopped, unmarked, sums⟩ := resultCode_eq_ok_iff.mp code
    exact (resultCode_eq_crcError_iff (s := { s with buf := s.buf.write a v }) stopped unmarked).mpr
      (checksum_write_ne wf sums cell changed)
  case cancelling =>
    exact ⟨{ State.reset with buf := Memory.ofBytes ⟨0x76#8, 0xE7#8, 0x00#8, 0x8D#8, 0x02#8⟩ }, 4, 3, 0x03#8, 0x8C#8,
      by decide⟩
  case empty =>
    intro s stopped unmarked zeros
    obtain ⟨sums, temp, rh⟩ := fields_of_read_eq_zero zeros
    have code : resultCode s = .ok := resultCode_eq_ok_iff.mpr ⟨stopped, mt counter_eq_sentinel_iff.mp unmarked, sums⟩
    exact ⟨_, exec_getResult_of_ok code, rfl, temp, rh⟩

/-- Settles O22: the word is `payloadWord`, whose bytes are the cells that it joins. -/
theorem getRawDataIsASnapshot : Obligations.GetRawDataIsASnapshot :=
  fun s => ⟨_, exec_getRawData s, joinCells_extract _ _ _ _ _⟩
end

section
/-! The control glue: the state that INIT leaves, the control registers of each phase, and the phase that each command and
each TICK leads to (spec 10_state R34, 45_control_glue R180, R185). -/

namespace Sys2Proof.Machine

open Sys2Proof

/-! ### The control registers of a phase -/

/-- R34: in a phase without a conversion nothing is enabled, the counter is stopped and the line is released. -/
theorem control_of_resting {s : State} (inv : MachineInv s = true)
    (resting : s.phase = .idle ∨ s.phase = .done ∨ s.phase = .timedOut) :
    s.run = false ∧ s.ovfEn = false ∧ s.capEn = false ∧ s.drive = false := by
  rcases resting with phase | phase | phase <;> simp_all [MachineInv, phaseRow]

/-- R34: during the request pulse the counter runs to an overflow that raises an event, and nothing is captured. -/
theorem control_of_driving {s : State} (inv : MachineInv s = true) (driving : s.phase = .driving) :
    s.run = true ∧ s.ovfEn = true ∧ s.capEn = false := by
  simp_all [MachineInv, phaseRow]

/-- R34: while the block listens the counter runs, and both events are enabled. -/
theorem control_of_listening {s : State} (inv : MachineInv s = true) (listening : s.phase = .listening) :
    s.run = true ∧ s.ovfEn = true ∧ s.capEn = true := by
  simp_all [MachineInv, phaseRow]

/-! ### Commands -/

/-- R180: INIT writes its five registers in every state, without reading any of them, and nothing else. -/
theorem exec_init (s : State) : exec .init s = .next { s with
    ovfEn := false, capEn := false, run := false, drive := false, phase := .idle } := rfl

/-- R231: RESET leads to `Idle` from every state. -/
theorem exec_reset_phase {s t : State} (h : exec .reset s = .next t) : t.phase = .idle := by
  cases h
  rfl

/-- R185: GET_RESULT keeps the phase, whatever it answers. -/
theorem exec_getResult_phase {s t : State} (h : exec .getResult s = .next t) : t.phase = s.phase := by
  by_cases code : resultCode s = .ok
  · cases (exec_getResult_of_ok code).symm.trans h
    rfl
  · cases (exec_getResult_of_ne_ok rfl code).symm.trans h
    rfl

/-! ### Events and TICK -/

/-- R141 to R144: of the armed capture events only the falling edge that ends the last bit moves the phase. -/
theorem raiseEvent_capture_phase {pw : Word} {s t : State} (armed : s.capEn = true)
    (h : raiseEvent .capture pw s = .next t) :
    t.phase = if s.edge = .falling ∧ s.bitcnt.toNat = 0 then .done else s.phase := by
  rcases raiseEvent_cases .capture pw s with ⟨hk, -⟩ | ⟨hk, -⟩ | ⟨-, unarmed, -⟩ | ⟨-, -, rising, h'⟩ |
    ⟨-, -, -, acknowledging, h'⟩ | ⟨-, -, -, -, notLast, h'⟩ | ⟨-, -, falling, last, h'⟩
  · cases hk
  · cases hk
  · simp [armed] at unarmed
  all_goals cases h'.symm.trans h
  · simp [rising]
  · have pos : s.bitcnt.toNat ≠ 0 := by intro zero; simp [zero] at acknowledging
    simp [pos]
  · have pos : s.bitcnt.toNat ≠ 0 := fun zero => notLast (BitVec.eq_of_toNat_eq zero)
    simp [pos]
  · simp [falling, last]

/-- R131, R132: an overflow event ends the request pulse if the capture unit is not yet armed, and the conversion if it
is. -/
theorem raiseEvent_overflow_phase {pw : Word} {s t : State} (h : raiseEvent .overflow pw s = .next t) :
    t.phase = if s.capEn = true then .timedOut else .listening := by
  rw [raiseEvent_overflow_eq_exec] at h
  split_ifs at h ⊢
  · cases (exec_ovfTimeout s).symm.trans h
    rfl
  · cases (exec_ovfStartEnd s).symm.trans h
    rfl

/-- R103, R186: with the counter stopped TICK keeps the phase. -/
theorem exec_tick_stopped_phase {l : Bool} {s t : State} (stopped : s.run = false) (h : exec (.tick l) s = .next t) :
    t.phase = s.phase := by
  cases (execTick_stopped l s stopped).symm.trans h
  rfl

/-- R106, R112: a TICK that captures moves the phase as its capture event does, whatever the counter holds. -/
theorem exec_tick_captured_phase {l : Bool} {s t : State} (running : s.run = true) (armed : s.capEn = true)
    (sel : selectedEdge s.edge s.linePrev l = true) (h : exec (.tick l) s = .next t) :
    t.phase = if s.edge = .falling ∧ s.bitcnt.toNat = 0 then .done else s.phase :=
  raiseEvent_capture_phase (s := s.sampleLine l |>.loadCounter 0#16) armed
    ((execTick_capture l s running armed sel).symm.trans h)

/-- R107: without a capture, and with overflow enabled, TICK moves the phase exactly at `CMAX`, as the overflow event
does. -/
theorem exec_tick_uncaptured_phase {l : Bool} {s t : State} (running : s.run = true) (enabled : s.ovfEn = true)
    (quiet : (s.capEn && selectedEdge s.edge s.linePrev l) = false) (h : exec (.tick l) s = .next t) :
    t.phase = if s.counter.toNat = 65535 then (if s.capEn = true then .timedOut else .listening) else s.phase := by
  by_cases top : s.counter.toNat = 65535
  · rw [if_pos top]
    exact raiseEvent_overflow_phase (s := s.sampleLine l |>.loadCounter 0#16)
      ((execTick_wrap l s running quiet (counter_eq_sentinel_iff.mpr top) enabled).symm.trans h)
  · rw [if_neg top]
    cases (execTick_count l s running quiet (mt counter_eq_sentinel_iff.mp top)).symm.trans h
    rfl

end Sys2Proof.Machine

open Sys2Proof Sys2Proof.Machine

/-- Settles O42: the invariant gives the control registers of the phase, and they select the one lemma on TICK that
applies; the commands follow from the states they leave. -/
theorem phaseMovesAsTheTransitionTable : Obligations.PhaseMovesAsTheTransitionTable := by
  refine ⟨fun s t l inv h => ⟨fun resting => ?resting, fun driving => ?driving, fun listening => ?listening⟩,
    fun s t => ⟨?trigger, ?init, exec_reset_phase, ?others⟩⟩
  case resting =>
    obtain ⟨stopped, -⟩ := control_of_resting inv resting
    exact exec_tick_stopped_phase stopped h
  case driving =>
    obtain ⟨running, enabled, unarmed⟩ := control_of_driving inv driving
    simpa [unarmed, driving] using exec_tick_uncaptured_phase running enabled (by simp [unarmed]) h
  case listening =>
    obtain ⟨running, enabled, armed⟩ := control_of_listening inv listening
    by_cases sel : selectedEdge s.edge s.linePrev l = true
    · rw [if_pos sel, ← listening]
      exact exec_tick_captured_phase running armed sel h
    · rw [if_neg sel]
      simpa [armed, listening] using exec_tick_uncaptured_phase running enabled (by simp [sel]) h
  case trigger =>
    intro h
    cases (exec_triggerRead s).symm.trans h
    rfl
  case init =>
    intro h
    cases (exec_init s).symm.trans h
    rfl
  case others =>
    rintro (h | h | h | h | h | h)
    case inr.inl => exact exec_getResult_phase h
    all_goals
      cases h
      rfl

/-- Settles O15: the state is `exec_init`'s, which already holds what a second INIT would write (R183); an idle state of the
invariant has those values in all five registers. -/
theorem initGivesTheRestState : Obligations.InitGivesTheRestState := by
  refine ⟨exec_init, fun s t h => ?idempotent, fun s inv idle => ?idle⟩
  case idempotent =>
    cases (exec_init s).symm.trans h
    rfl
  case idle =>
    obtain ⟨run, ovfEn, capEn, drive⟩ := control_of_resting inv (.inl idle)
    rw [exec_init]
    cases s
    cases run; cases ovfEn; cases capEn; cases drive; cases idle
    rfl
end

section
/-! SUPPORT. RESET and the rest it leads to (spec 70_reset_and_hazards R230 to R232). -/

namespace Sys2Proof.Machine

open Sys2Proof

/-- R231, R232: RESET writes every register of the block in every state, the open ones from the parameters, and clears the
response ports; only the parameters and the inputs to come stay. -/
theorem exec_reset (s : State) : exec .reset s = .next {
    counter := s.cfg.resetCounter, run := false, ovfEn := false, capEn := false, edge := .falling, drive := false,
    bitcnt := 41#6, buf := Memory.ofBytes s.cfg.resetBuf, linePrev := true, phase := .idle, tempOut := s.cfg.resetTemp,
    rhOut := s.cfg.resetRh, cfg := s.cfg, inputs := s.inputs, resp := none } := rfl

/-- R27: the status word is its five bits, so it reads 0 when each of them is 0. -/
theorem ctrl_eq_zero {s : State} (run : s.run = false) (ovfEn : s.ovfEn = false) (capEn : s.capEn = false)
    (edge : s.edge = .falling) (drive : s.drive = false) : s.ctrl = 0#5 := by
  simp [State.ctrl, Edge.bit, run, ovfEn, capEn, edge, drive]

/-- R103, R186: with the counter stopped TICK samples the line and does nothing else, whatever else is enabled. -/
theorem exec_tick_stopped (l : Bool) {s : State} (stopped : s.run = false) :
    exec (.tick l) s = .next { s with linePrev := l } :=
  execTick_stopped l s stopped

end Sys2Proof.Machine

open Sys2Proof Sys2Proof.Machine

/-- Settles O1: the values are `exec_reset`'s, and the cells read back as loaded. With `RUN = 0` TICK only samples the line,
and INIT finds its five registers as it would write them. -/
theorem resetTakesTheResetState : Obligations.ResetTakesTheResetState := by
  intro s
  refine ⟨_, exec_reset s, rfl, rfl, rfl, rfl, rfl, ?ctrl, rfl, rfl, rfl, rfl, rfl, ?b0, ?b1, ?b2, ?b3, ?b4,
    rfl, rfl, rfl, rfl, rfl, fun l => ?tick, exec_init _⟩
  case ctrl => exact ctrl_eq_zero rfl rfl rfl rfl rfl
  case tick => exact exec_tick_stopped l rfl
  all_goals exact Memory.read_ofBytes _ _
end

section
/-! One cycle said once: the state that TICK, a capture event and each command leave, written as records, and the cycle as
RESET alone or as TICK and a command (spec 40_timer_gpio R110, 60_exceptions R201). -/

namespace Sys2Proof.Machine

open Sys2Proof

/-- Sequences associate. -/
theorem andThen_assoc (o : Result) (f g : State → Result) :
    andThen (andThen o f) g = andThen o fun s => andThen (f s) g := by
  cases o <;> rfl

/-! ### The capture handler -/

/-- Everything the handler of R145 can do, one case for each of the four operations (R141 to R144). -/
theorem captureHandler_cases (pw : Word) (s : State) :
    (s.edge = .rising ∧ captureHandler pw s = { s with edge := .falling }) ∨
    (s.edge = .falling ∧ 40 ≤ s.bitcnt.toNat ∧
      captureHandler pw s = { s with bitcnt := s.bitcnt - 1#6, edge := .rising }) ∨
    (s.edge = .falling ∧ 1 ≤ s.bitcnt.toNat ∧ s.bitcnt.toNat < 40 ∧ captureHandler pw s = { s with
      buf := s.buf.write (byteIndex s.bitcnt) (shiftIn (s.buf.read (byteIndex s.bitcnt)) (classify s.cfg pw))
      bitcnt := s.bitcnt - 1#6, edge := .rising }) ∨
    (s.edge = .falling ∧ s.bitcnt.toNat = 0 ∧ captureHandler pw s = { s with
      buf := s.buf.write 0 (shiftIn (s.buf.read 0) (classify s.cfg pw))
      ovfEn := false, capEn := false, run := false, phase := .done, edge := .rising }) := by
  cases edge : s.edge with
  | rising => simp [captureHandler, edge]
  | falling =>
    by_cases last : s.bitcnt.toNat = 0
    · have zero : s.bitcnt = 0#6 := BitVec.eq_of_toNat_eq last
      simp [captureHandler, edge, zero, shiftIn_classify]
    · have pos : 1 ≤ s.bitcnt.toNat := by omega
      by_cases ack : 40 ≤ s.bitcnt.toNat
      · have notStored : ¬ s.bitcnt.toNat < 40 := by omega
        simp [captureHandler, edge, ack, notStored, bitcnt_ne_zero pos]
      · have stored : s.bitcnt.toNat < 40 := by omega
        simp [captureHandler, edge, ack, pos, stored, bitcnt_ne_zero pos, shiftIn_classify, byteIndex]

/-! ### TICK -/

/-- Everything TICK can leave, with the condition that selects it. -/
theorem exec_tick_cases {l : Bool} {s t : State} (h : exec (.tick l) s = .next t) :
    (s.run = false ∧ t = { s with linePrev := l }) ∨
    (s.run = true ∧ s.capEn = true ∧ selectedEdge s.edge s.linePrev l = true ∧
      t = captureHandler s.counter { s with linePrev := l, counter := 0#16 }) ∨
    (s.run = true ∧ s.capEn = false ∧ s.ovfEn = true ∧ s.counter = cmax ∧ t = { s with
      linePrev := l, drive := false, counter := 0#16, edge := .falling, capEn := true, phase := .listening }) ∨
    (s.run = true ∧ s.capEn = true ∧ s.ovfEn = true ∧ s.counter = cmax ∧ selectedEdge s.edge s.linePrev l = false ∧
      t = { s with
        linePrev := l, ovfEn := false, capEn := false, run := false, counter := sentinel, phase := .timedOut }) ∨
    (s.run = true ∧ s.ovfEn = false ∧ s.counter = cmax ∧ (s.capEn && selectedEdge s.edge s.linePrev l) = false ∧
      t = { s with linePrev := l, counter := 0#16 }) ∨
    (s.run = true ∧ s.counter ≠ cmax ∧ (s.capEn && selectedEdge s.edge s.linePrev l) = false ∧
      t = { s with linePrev := l, counter := s.counter + 1#16 }) := by
  change execTick l s = .next t at h
  rcases execTick_cases l s with ⟨hr, hx⟩ | ⟨hr, armed, sel, hx⟩ | ⟨hr, quiet, hc, ho, hx⟩ | ⟨hr, quiet, hc, ho, hx⟩ |
    ⟨hr, quiet, hc, hx⟩ <;> rw [hx] at h
  · cases h
    exact .inl ⟨hr, rfl⟩
  · rw [captureEventIsTheWholeHandler (s.sampleLine l |>.loadCounter 0#16) s.counter armed] at h
    cases h
    exact .inr (.inl ⟨hr, armed, sel, rfl⟩)
  · rw [raiseEvent_overflow_eq_exec, loadCounter_capEn, sampleLine_capEn] at h
    cases armed : s.capEn <;> rw [armed] at h quiet <;> cases h
    · exact .inr (.inr (.inl ⟨hr, rfl, ho, hc, rfl⟩))
    · exact .inr (.inr (.inr (.inl ⟨hr, rfl, ho, hc, quiet, rfl⟩)))
  · cases h
    exact .inr (.inr (.inr (.inr (.inl ⟨hr, ho, hc, quiet, rfl⟩))))
  · cases h
    exact .inr (.inr (.inr (.inr (.inr ⟨hr, hc, quiet, rfl⟩))))

/-- R201: every TICK completes. -/
theorem exec_tick_completes (l : Bool) (s : State) : ∃ t, exec (.tick l) s = .next t :=
  (execTick_completes l s).imp fun _ h => h.1

/-! ### Commands -/

/-- R160, R168: GET_RESULT writes its answer, and the reading only where the answer is `ok`. -/
theorem exec_getResult_eq_next {s t : State} (h : exec .getResult s = .next t) :
    t = { s with tempOut := t.tempOut, rhOut := t.rhOut, resp := some (.result (resultCode s)) } ∧
      (resultCode s ≠ .ok → t.tempOut = s.tempOut ∧ t.rhOut = s.rhOut) := by
  by_cases code : resultCode s = .ok
  · cases (exec_getResult_of_ok code).symm.trans h
    exact ⟨by rw [code], fun notOk => absurd code notOk⟩
  · cases (exec_getResult_of_ne_ok rfl code).symm.trans h
    exact ⟨rfl, fun _ => ⟨rfl, rfl⟩⟩

/-- Everything a command can leave, by its code (R73, R74). -/
theorem exec_decodeCommand_cases {c : BitVec 3} {s t : State} (h : exec (decodeCommand c) s = .next t) :
    (c = 0b001#3 ∧ t = { s with ovfEn := false, capEn := false, run := false, drive := false, phase := .idle }) ∨
    (c = 0b010#3 ∧ t = { s with
      bitcnt := bitcntStart, buf := Memory.zeroed, ovfEn := true, capEn := false, drive := true,
      counter := preload s.cfg, run := true, phase := .driving }) ∨
    (c = 0b011#3 ∧ t = { s with tempOut := t.tempOut, rhOut := t.rhOut, resp := some (.result (resultCode s)) } ∧
      (resultCode s ≠ .ok → t.tempOut = s.tempOut ∧ t.rhOut = s.rhOut)) ∨
    (c = 0b100#3 ∧ t = { s with resp := some (.raw (payloadWord s.buf) s.bitcnt) }) ∨
    (c ≠ 0b001#3 ∧ c ≠ 0b010#3 ∧ c ≠ 0b011#3 ∧ c ≠ 0b100#3 ∧ t = s) := by
  by_cases c1 : c = 0b001#3
  · subst c1; cases h; exact .inl ⟨rfl, rfl⟩
  by_cases c2 : c = 0b010#3
  · subst c2; cases h; exact .inr (.inl ⟨rfl, rfl⟩)
  by_cases c3 : c = 0b011#3
  · subst c3; exact .inr (.inr (.inl ⟨rfl, exec_getResult_eq_next h⟩))
  by_cases c4 : c = 0b100#3
  · subst c4; cases h; exact .inr (.inr (.inr (.inl ⟨rfl, rfl⟩)))
  · have nothing : exec (decodeCommand c) s = .next s := by
      unfold decodeCommand
      rw [if_neg c1, if_neg c2, if_neg c3, if_neg c4]
      split_ifs <;> rfl
    exact .inr (.inr (.inr (.inr ⟨c1, c2, c3, c4, Host.Outcome.next.inj (h.symm.trans nothing)⟩)))

/-! ### The cycle -/

/-- Everything a cycle can do (R110): RESET alone, or TICK and then the command. -/
theorem step_cases {s t : State} (h : step s = .next t) :
    (s.input.rst = true ∧ ∃ u, exec .reset s.clearResponse = .next u ∧ t = u.endCycle) ∨
    (s.input.rst = false ∧ ∃ u v, exec (.tick s.lineIn) s.clearResponse = .next u ∧
      exec (decodeCommand s.input.cmd) u = .next v ∧ t = v.endCycle) := by
  rw [step_eq] at h
  cases hrst : s.input.rst with
  | true =>
    rw [runCycle_reset s hrst] at h
    obtain ⟨u, hu, ht⟩ := andThen_eq_next.mp h
    exact .inl ⟨rfl, u, hu, (Host.Outcome.next.inj ht).symm⟩
  | false =>
    rw [runCycle_command s hrst] at h
    obtain ⟨v, hv, ht⟩ := andThen_eq_next.mp h
    obtain ⟨u, hu, hv⟩ := andThen_eq_next.mp hv
    exact .inr ⟨rfl, u, v, hu, hv, (Host.Outcome.next.inj ht).symm⟩

/-- A cycle with `rst = 0`, from its two parts. -/
theorem step_of_command {s u v : State} (rst : s.input.rst = false) (tick : exec (.tick s.lineIn) s.clearResponse = .next u)
    (command : exec (decodeCommand s.input.cmd) u = .next v) : step s = .next v.endCycle := by
  rw [step_eq, runCycle_command s rst, tick, andThen_next, command, andThen_next]

/-- R201: every cycle completes. -/
theorem step_completes (s : State) : ∃ t, step s = .next t := by
  cases hrst : s.input.rst with
  | true => exact ⟨_, runCycle_reset s hrst⟩
  | false =>
    obtain ⟨u, hu⟩ := exec_tick_completes s.lineIn s.clearResponse
    obtain ⟨v, hv⟩ := exec_decodeCommand_completes s.input.cmd u
    exact ⟨_, step_of_command hrst hu hv⟩

/-! ### What every operation of a cycle keeps -/

/-- The handler writes the decoder data and the control registers, and nothing else. -/
theorem captureHandler_frame (pw : Word) (s : State) :
    (captureHandler pw s).counter = s.counter ∧ (captureHandler pw s).drive = s.drive ∧
    (captureHandler pw s).linePrev = s.linePrev ∧ (captureHandler pw s).tempOut = s.tempOut ∧
    (captureHandler pw s).rhOut = s.rhOut ∧ (captureHandler pw s).cfg = s.cfg ∧
    (captureHandler pw s).inputs = s.inputs ∧ (captureHandler pw s).resp = s.resp := by
  rcases captureHandler_cases pw s with ⟨-, h⟩ | ⟨-, -, h⟩ | ⟨-, -, -, h⟩ | ⟨-, -, h⟩ <;> rw [h] <;> simp

/-- R220, R104: TICK writes no reading, no response, no parameter and no input, and `LINE_PREV` takes the level. -/
theorem exec_tick_frame {l : Bool} {s t : State} (h : exec (.tick l) s = .next t) :
    t.tempOut = s.tempOut ∧ t.rhOut = s.rhOut ∧ t.cfg = s.cfg ∧ t.inputs = s.inputs ∧ t.resp = s.resp ∧ t.linePrev = l := by
  rcases exec_tick_cases h with ⟨-, rfl⟩ | ⟨-, -, -, rfl⟩ | ⟨-, -, -, -, rfl⟩ | ⟨-, -, -, -, -, rfl⟩ | ⟨-, -, -, -, rfl⟩ |
    ⟨-, -, -, rfl⟩
  case inr.inl =>
    obtain ⟨-, -, line, temp, rh, cfg, inputs, resp⟩ :=
      captureHandler_frame s.counter { s with linePrev := l, counter := 0#16 }
    exact ⟨temp, rh, cfg, inputs, resp, line⟩
  all_goals exact ⟨rfl, rfl, rfl, rfl, rfl, rfl⟩

/-- No command writes a parameter, an input or `LINE_PREV`. -/
theorem exec_decodeCommand_frame {c : BitVec 3} {s t : State} (h : exec (decodeCommand c) s = .next t) :
    t.cfg = s.cfg ∧ t.inputs = s.inputs ∧ t.linePrev = s.linePrev := by
  rcases exec_decodeCommand_cases h with ⟨-, rfl⟩ | ⟨-, rfl⟩ | ⟨-, ht, -⟩ | ⟨-, rfl⟩ | ⟨-, -, -, -, rfl⟩
  case inr.inr.inl =>
    rw [ht]
    exact ⟨rfl, rfl, rfl⟩
  all_goals exact ⟨rfl, rfl, rfl⟩

/-- A cycle writes no parameter and uses up one input. -/
theorem step_frame {s t : State} (h : step s = .next t) : t.cfg = s.cfg ∧ t.inputs = s.inputs.tail := by
  rcases step_cases h with ⟨-, u, hu, rfl⟩ | ⟨-, u, v, hu, hv, rfl⟩
  · cases hu
    exact ⟨rfl, rfl⟩
  · obtain ⟨-, -, hcfg, hinputs, -⟩ := exec_tick_frame hu
    obtain ⟨vcfg, vinputs, -⟩ := exec_decodeCommand_frame hv
    exact ⟨vcfg.trans hcfg, by rw [endCycle_inputs, vinputs, hinputs, clearResponse_inputs]⟩

end Sys2Proof.Machine

open Sys2Proof Sys2Proof.Machine

/-- Settles O5: a cycle, a command, RESET, a TICK and an event each answer a next state, whatever the state. A capture event
with `CAP_EN = 0` answers the state it is raised on, which is the model's choice (log 12). -/
theorem noCommandAndNoCycleStops : Obligations.NoCommandAndNoCycleStops :=
  ⟨step_completes, fun s c => exec_decodeCommand_completes c s, fun s => ⟨_, exec_reset s⟩,
    fun s l => exec_tick_completes l s, fun k pw s => (raiseEvent_completes k pw s).imp fun _ h => h.1⟩

/-- Settles O6: the frame of TICK, then the frame of the command. -/
theorem stepKeepsTheParametersAndUsesOneInput : Obligations.StepKeepsTheParametersAndUsesOneInput :=
  fun _ _ => step_frame

/-- Settles O12: the event inverts `EDGE`, and no edge is its own inverse. -/
theorem everyCaptureEventInvertsTheEdge : Obligations.EveryCaptureEventInvertsTheEdge := by
  intro s pw armed
  obtain ⟨t, ht, -, inverted⟩ := raiseEvent_capture_counter_edge pw s armed
  have notSelf : s.edge.toggled ≠ s.edge := by cases s.edge <;> decide
  exact ⟨t, ht, inverted, inverted ▸ notSelf⟩

/-- Settles O3: the decoded operation is the one `runCycle` selects by. -/
theorem stepRunsTheDecodedOperation : Obligations.StepRunsTheDecodedOperation := by
  intro s i hdecode _
  cases hdecode
  rw [step_eq]
  refine ⟨fun isReset => ?reset, fun notReset => ?command⟩
  case reset =>
    have word : decodeCyc s.clearResponse.fetchWord = .reset := isReset
    rw [runCycle, word, isReset]
    rfl
  case command =>
    have word : decodeCyc s.clearResponse.fetchWord ≠ .reset := notReset
    rw [runCycle, if_neg word]
    exact andThen_assoc _ _ _
end

section
/-! The machine invariant and the buffer's canonical form are kept by every cycle, and what follows for every run (spec
10_state R34, 20_memory R62). -/

namespace Sys2Proof.Machine

open Sys2Proof

/-! ### Runs -/

/-- A run of `n + 1` cycles is one cycle and a run of `n`. -/
theorem cycles_succ_eq_next {n : Nat} {s t : State} :
    cycles (n + 1) s = .next t ↔ ∃ u, step s = .next u ∧ cycles n u = .next t :=
  andThen_eq_next

/-- What every cycle keeps holds after every run. -/
theorem cycles_keep {P : State → Prop} (keep : ∀ s t, P s → step s = .next t → P t) {n : Nat} {s t : State} (start : P s)
    (h : cycles n s = .next t) : P t := by
  induction n generalizing s with
  | zero => exact Host.Outcome.next.inj h ▸ start
  | succ n ih =>
    obtain ⟨u, hu, ht⟩ := cycles_succ_eq_next.mp h
    exact ih (keep s u start hu) ht

/-! ### The invariant -/

/-- The three parts of the invariant. -/
theorem machineInv_iff {s : State} :
    MachineInv s = true ↔ phaseRow s = true ∧ Memory.wf s.buf = true ∧ Config.wf s.cfg = true := by
  simp only [MachineInv, Bool.and_eq_true, and_assoc]

/-- R34: every row bounds `BITCNT`. -/
theorem bitcnt_le_of_phaseRow {s : State} (row : phaseRow s = true) : s.bitcnt.toNat ≤ 41 := by
  cases phase : s.phase <;> simp_all [phaseRow]

/-- The row of the phase of a running conversion, by `CAP_EN`. -/
theorem phase_of_running {s : State} (row : phaseRow s = true) (running : s.run = true) :
    s.ovfEn = true ∧ (s.phase = .driving ∧ s.capEn = false ∧ s.drive = true ∧ (preload s.cfg).toNat ≤ s.counter.toNat ∨
      s.phase = .listening ∧ s.capEn = true ∧ s.drive = false) := by
  cases phase : s.phase <;> simp_all [phaseRow]

/-- A counter below `CMAX` counts by one without a wrap. -/
theorem counter_add_one_toNat {v : Word} (below : v ≠ cmax) : (v + 1#16).toNat = v.toNat + 1 := by
  have notTop : v.toNat ≠ 65535 := fun top => below (BitVec.eq_of_toNat_eq top)
  have bound := v.isLt
  rw [BitVec.toNat_add]
  exact Nat.mod_eq_of_lt (by change v.toNat + 1 < 65536; omega)

/-- R34: a capture event keeps the row of `Listening`, or leads to the row of `Done`. -/
theorem phaseRow_captureHandler {pw : Word} {s : State} (row : phaseRow s = true) (listening : s.phase = .listening)
    (zero : s.counter = 0#16) : phaseRow (captureHandler pw s) = true := by
  have bound := bitcnt_le_of_phaseRow row
  rcases captureHandler_cases pw s with ⟨-, h⟩ | ⟨-, ack, h⟩ | ⟨-, pos, -, h⟩ | ⟨-, last, h⟩ <;> rw [h]
  · simp_all [phaseRow]
  · have steps := bitcnt_sub_one_toNat (n := s.bitcnt) (by omega)
    have le : (s.bitcnt - 1#6).toNat ≤ 41 := by omega
    simp_all [phaseRow]
  · have steps := bitcnt_sub_one_toNat pos
    have le : (s.bitcnt - 1#6).toNat ≤ 41 := by omega
    simp_all [phaseRow]
  · have zero : s.bitcnt = 0#6 := BitVec.eq_of_toNat_eq last
    simp_all [phaseRow]

/-- R34: TICK keeps the row of the phase. -/
theorem phaseRow_tick {l : Bool} {s t : State} (row : phaseRow s = true) (h : exec (.tick l) s = .next t) :
    phaseRow t = true := by
  have bound := bitcnt_le_of_phaseRow row
  rcases exec_tick_cases h with ⟨-, rfl⟩ | ⟨hr, armed, -, rfl⟩ | ⟨hr, -, ho, -, rfl⟩ | ⟨hr, armed, -, -, -, rfl⟩ |
    ⟨hr, ho, -⟩ | ⟨hr, below, -, rfl⟩
  · exact row
  · obtain ⟨-, ⟨-, unarmed, -⟩ | ⟨listening, -⟩⟩ := phase_of_running row hr
    · simp [armed] at unarmed
    · exact phaseRow_captureHandler (by simpa [phaseRow, listening] using row) listening rfl
  · simp [phaseRow, hr, ho, bound]
  · obtain ⟨-, ⟨-, unarmed, -⟩ | ⟨-, -, released⟩⟩ := phase_of_running row hr
    · simp [armed] at unarmed
    · simp [phaseRow, released, bound]
  · obtain ⟨enabled, -⟩ := phase_of_running row hr
    simp [ho] at enabled
  · have counts := counter_add_one_toNat below
    obtain ⟨-, ⟨driving, -, -, le⟩ | ⟨listening, -⟩⟩ := phase_of_running row hr
    · have le' : (preload s.cfg).toNat ≤ (s.counter + 1#16).toNat := by omega
      simp_all [phaseRow]
    · simpa [phaseRow, listening] using row

/-- R34: a command keeps the row of the phase. -/
theorem phaseRow_command {c : BitVec 3} {s t : State} (row : phaseRow s = true)
    (h : exec (decodeCommand c) s = .next t) : phaseRow t = true := by
  rcases exec_decodeCommand_cases h with ⟨-, rfl⟩ | ⟨-, rfl⟩ | ⟨-, ht, -⟩ | ⟨-, rfl⟩ | ⟨-, -, -, -, rfl⟩
  · simp [phaseRow, bitcnt_le_of_phaseRow row]
  · simp [phaseRow]
  · rw [ht]
    exact row
  · exact row
  · exact row

/-- R34, R231: RESET leads to the row of `Idle`. -/
theorem phaseRow_reset {s t : State} (h : exec .reset s = .next t) : phaseRow t = true := by
  cases h
  rfl

/-- R34: a cycle keeps the row of the phase. -/
theorem phaseRow_step {s t : State} (row : phaseRow s = true) (h : step s = .next t) : phaseRow t = true := by
  rcases step_cases h with ⟨-, u, hu, rfl⟩ | ⟨-, u, v, hu, hv, rfl⟩
  · exact phaseRow_reset (t := u) hu
  · exact phaseRow_command (t := v) (phaseRow_tick (s := s.clearResponse) row hu) hv

/-! ### The canonical form -/

/-- A capture event keeps the buffer canonical. -/
theorem wf_captureHandler (pw : Word) {s : State} (wf : s.buf.wf = true) : (captureHandler pw s).buf.wf = true := by
  rcases captureHandler_cases pw s with ⟨-, h⟩ | ⟨-, -, h⟩ | ⟨-, -, lt, h⟩ | ⟨-, -, h⟩ <;> rw [h]
  · exact wf
  · exact wf
  · exact Memory.wf_write s.buf _ _ wf (byteIndex_lt lt)
  · exact Memory.wf_write s.buf 0 _ wf (by decide)

/-- TICK keeps the buffer canonical. -/
theorem wf_tick {l : Bool} {s t : State} (wf : s.buf.wf = true) (h : exec (.tick l) s = .next t) : t.buf.wf = true := by
  rcases exec_tick_cases h with ⟨-, rfl⟩ | ⟨-, -, -, rfl⟩ | ⟨-, -, -, -, rfl⟩ | ⟨-, -, -, -, -, rfl⟩ | ⟨-, -, -, -, rfl⟩ |
    ⟨-, -, -, rfl⟩
  case inr.inl => exact wf_captureHandler _ wf
  all_goals exact wf

/-- A command keeps the buffer canonical. -/
theorem wf_command {c : BitVec 3} {s t : State} (wf : s.buf.wf = true) (h : exec (decodeCommand c) s = .next t) :
    t.buf.wf = true := by
  rcases exec_decodeCommand_cases h with ⟨-, rfl⟩ | ⟨-, rfl⟩ | ⟨-, ht, -⟩ | ⟨-, rfl⟩ | ⟨-, -, -, -, rfl⟩
  case inr.inl => exact Memory.wf_ofBytes _
  case inr.inr.inl =>
    rw [ht]
    exact wf
  all_goals exact wf

/-- A cycle keeps the buffer canonical. -/
theorem wf_step {s t : State} (wf : s.buf.wf = true) (h : step s = .next t) : t.buf.wf = true := by
  rcases step_cases h with ⟨-, u, hu, rfl⟩ | ⟨-, u, v, hu, hv, rfl⟩
  · cases hu
    exact Memory.wf_ofBytes _
  · exact wf_command (t := v) (wf_tick (s := s.clearResponse) wf hu) hv

/-! ### A stopped conversion -/

/-- R62: `t` has a stopped counter and the decoder data of `s`. -/
structure KeepsFinished (s t : State) : Prop where
  run : t.run = false
  buf : t.buf = s.buf
  bitcnt : t.bitcnt = s.bitcnt
  counter : t.counter = s.counter

/-- Neither RESET nor TRIGGER_READ is among the inputs to come. -/
def State.hostStartsNothing (s : State) : Prop := ∀ x ∈ s.inputs, x.rst = false ∧ x.cmd ≠ 0b010#3

/-- The input of the cycle is then none of the two, also where none is listed (log 5). -/
theorem input_of_startsNothing {s : State} (host : s.hostStartsNothing) :
    s.input.rst = false ∧ s.input.cmd ≠ 0b010#3 := by
  unfold State.hostStartsNothing at host
  unfold State.input
  cases hin : s.inputs with
  | nil => exact ⟨rfl, by decide⟩
  | cons x rest => exact host x (by simp [hin])

/-- R62: with the counter stopped, a cycle without RESET and TRIGGER_READ keeps the decoder data. -/
theorem keepsFinished_step {s t : State} (stopped : s.run = false) (host : s.hostStartsNothing) (h : step s = .next t) :
    KeepsFinished s t ∧ t.hostStartsNothing := by
  obtain ⟨noReset, noTrigger⟩ := input_of_startsNothing host
  refine ⟨?_, fun x hx => host x (List.mem_of_mem_tail ((step_frame h).2 ▸ hx))⟩
  rcases step_cases h with ⟨reset, -⟩ | ⟨-, u, v, hu, hv, rfl⟩
  · simp [noReset] at reset
  · cases (exec_tick_stopped s.lineIn (s := s.clearResponse) stopped).symm.trans hu
    rcases exec_decodeCommand_cases hv with ⟨-, rfl⟩ | ⟨trigger, -⟩ | ⟨-, ht, -⟩ | ⟨-, rfl⟩ | ⟨-, -, -, -, rfl⟩
    case inr.inl => exact absurd trigger noTrigger
    case inr.inr.inl =>
      rw [ht]
      exact ⟨stopped, rfl, rfl, rfl⟩
    all_goals exact ⟨by simp [stopped], rfl, rfl, rfl⟩

/-- R62, and so does any number of such cycles. -/
theorem keepsFinished_cycles {n : Nat} {s t : State} (stopped : s.run = false) (host : s.hostStartsNothing)
    (h : cycles n s = .next t) : KeepsFinished s t := by
  refine (cycles_keep (P := fun u => KeepsFinished s u ∧ u.hostStartsNothing) ?_ ⟨⟨stopped, rfl, rfl, rfl⟩, host⟩ h).1
  rintro u v ⟨⟨run, buf, bitcnt, counter⟩, host⟩ hv
  obtain ⟨⟨run', buf', bitcnt', counter'⟩, host'⟩ := keepsFinished_step run host hv
  exact ⟨⟨run', buf'.trans buf, bitcnt'.trans bitcnt, counter'.trans counter⟩, host'⟩

/-- R160: the answer of GET_RESULT rests on `RUN`, `COUNTER` and the buffer alone. -/
theorem resultCode_congr {s t : State} (run : t.run = s.run) (counter : t.counter = s.counter) (buf : t.buf = s.buf) :
    resultCode t = resultCode s := by
  simp only [resultCode, run, counter, buf]

/-- R34: with the counter stopped no event is enabled. -/
theorem disabled_of_stopped {s : State} (row : phaseRow s = true) (stopped : s.run = false) :
    s.ovfEn = false ∧ s.capEn = false := by
  cases phase : s.phase <;> simp_all [phaseRow]

/-- R161: an answer other than `ongoing` means a stopped counter. -/
theorem stopped_of_resultCode_ne {s : State} (ended : resultCode s ≠ .ongoing) : s.run = false :=
  Bool.eq_false_of_not_eq_true (mt resultCode_eq_ongoing ended)

end Sys2Proof.Machine

open Sys2Proof Sys2Proof.Machine

/-- Settles O39: the parameters stay, and the row and the canonical form are kept each by its own step lemma. -/
theorem everyStepKeepsTheInvariant : Obligations.EveryStepKeepsTheInvariant := by
  intro s t inv h
  obtain ⟨row, wf, bounds⟩ := machineInv_iff.mp inv
  exact machineInv_iff.mpr ⟨phaseRow_step row h, wf_step wf h, (step_frame h).1 ▸ bounds⟩

/-- Settles O40: RESET leads to the row of `Idle`, every cycle keeps the row, and the consequences are read off the row of
each phase. -/
theorem reachableStatesMeetTheRowOfTheirPhase : Obligations.ReachableStatesMeetTheRowOfTheirPhase := by
  intro s r t n _ hr ht
  have row : phaseRow t = true := cycles_keep (P := fun u => phaseRow u = true) (fun _ _ => phaseRow_step)
    (phaseRow_reset hr) ht
  refine ⟨row, fun armed => ?armed, fun running => (phase_of_running row running).1, fun driven => ?driven,
    bitcnt_le_of_phaseRow row⟩
  case armed => cases phase : t.phase <;> simp_all [phaseRow]
  case driven => cases phase : t.phase <;> simp_all [phaseRow]

/-- Settles O41: a store is to a cell that exists, and RESET and TRIGGER_READ load all five cells. -/
theorem everyStepKeepsTheBufferCanonical : Obligations.EveryStepKeepsTheBufferCanonical :=
  fun _ _ => wf_step

/-- Settles O2: the reset state by evaluation; RESET leads to the row of `Idle` with five loaded cells. -/
theorem resetStateMeetsTheInvariant : Obligations.ResetStateMeetsTheInvariant := by
  refine ⟨by decide, rfl, rfl, rfl, rfl, rfl, fun s t bounds h => ?_⟩
  cases h
  exact machineInv_iff.mpr ⟨rfl, Memory.wf_ofBytes _, bounds⟩

/-- Settles O45: an answer other than `ongoing` means `RUN = 0`, so the row of the phase disables both events; the data that
the two reading commands answer from are then kept. -/
theorem aFinishedConversionStaysReadable : Obligations.AFinishedConversionStaysReadable := by
  intro s u c inv hu answer ended host
  obtain ⟨row, -, -⟩ := machineInv_iff.mp inv
  obtain ⟨hs, -⟩ := exec_getResult_eq_next hu
  have code : resultCode s = c := by
    rw [hs] at answer
    simpa using answer
  have stopped : s.run = false := stopped_of_resultCode_ne (code ▸ ended)
  obtain ⟨noOvf, noCap⟩ := disabled_of_stopped row stopped
  have uRun : u.run = false := by rw [hs]; exact stopped
  have uCode : resultCode u = c := by rw [hs, ← code]; rfl
  refine ⟨uRun, by rw [hs]; exact noOvf, by rw [hs]; exact noCap, fun n t ht => ?_⟩
  obtain ⟨run, buf, bitcnt, counter⟩ := keepsFinished_cycles uRun host ht
  refine ⟨run, buf, bitcnt, counter, exec_getResult_resp ?_, _, exec_getRawData t, by rw [buf, bitcnt]⟩
  rw [resultCode_congr (run.trans uRun.symm) counter buf, uCode]
end

section
/-! What the operations leave unchanged, and what the ports and the reading commands show (spec 20_memory R51, 44_result_decoder
R160 to R170, 10_state R27 to R38). -/

namespace Sys2Proof.Machine

open Sys2Proof

/-! ### Event operations -/

/-- R143: CAP_FALL_BIT answers a next state only with `BITCNT` from 1 to 39. -/
theorem exec_capFallBit_inv {pw : Word} {s t : State} (h : exec (.capFallBit pw) s = .next t) :
    1 ≤ s.bitcnt.toNat ∧ s.bitcnt.toNat < ackLimit := by
  change andThen (storeBit (byteIndex s.bitcnt) pw s) _ = .next t at h
  obtain ⟨u, hu, hrest⟩ := andThen_eq_next.mp h
  obtain ⟨cell, rfl⟩ := storeCell_eq_next.mp hu
  obtain ⟨v, hv, -⟩ := andThen_eq_next.mp hrest
  obtain ⟨steps, -⟩ := decrementBitcnt_eq_next.mp hv
  have notZero : s.bitcnt.toNat ≠ 0 := fun zero => steps (BitVec.eq_of_toNat_eq zero)
  unfold byteIndex bufCells at cell
  unfold ackLimit
  omega

/-- R152: `BITCNT - 1` with `BITCNT = 0` stops by name (log 11). -/
theorem decrementBitcnt_of_zero {s : State} (zero : s.bitcnt.toNat = 0) : decrementBitcnt s = .fault .bitCounterBorrow :=
  if_pos (BitVec.eq_of_toNat_eq zero)

/-- R142: CAP_FALL_ACK answers a next state only where `BITCNT` can step. -/
theorem exec_capFallAck_inv {pw : Word} {s t : State} (h : exec (.capFallAck pw) s = .next t) : 1 ≤ s.bitcnt.toNat := by
  change andThen (decrementBitcnt s) _ = .next t at h
  obtain ⟨u, hu, -⟩ := andThen_eq_next.mp h
  obtain ⟨steps, -⟩ := decrementBitcnt_eq_next.mp hu
  exact Nat.one_le_iff_ne_zero.mpr fun zero => steps (BitVec.eq_of_toNat_eq zero)

/-- A capture event writes at most the cell `BITCNT div 8`, and none unless it stores a bit. -/
theorem captureHandler_buf (pw : Word) {s : State} (wf : s.buf.wf = true) :
    (∀ a, a ≠ byteIndex s.bitcnt → (captureHandler pw s).buf.read a = s.buf.read a) ∧
    (¬ (s.edge = .falling ∧ s.bitcnt.toNat < 40) → (captureHandler pw s).buf = s.buf) := by
  rcases captureHandler_cases pw s with ⟨-, h⟩ | ⟨-, -, h⟩ | ⟨falling, -, lt, h⟩ | ⟨falling, last, h⟩ <;> rw [h]
  · exact ⟨fun _ _ => rfl, fun _ => rfl⟩
  · exact ⟨fun _ _ => rfl, fun _ => rfl⟩
  · exact ⟨fun a other => Memory.read_write_other s.buf _ a _ wf other, fun stores => absurd ⟨falling, lt⟩ stores⟩
  · have index : byteIndex s.bitcnt = 0 := by simp [byteIndex, last]
    rw [index]
    exact ⟨fun a other => Memory.read_write_other s.buf 0 a _ wf other, fun stores => absurd ⟨falling, by omega⟩ stores⟩

/-! ### Answers -/

/-- R160, R168: the state that GET_RESULT leaves, whatever it answers. -/
theorem exec_getResult (s : State) : exec .getResult s = .next { s with
    tempOut := if resultCode s = .ok then signMagnitude (tempField s.buf) else s.tempOut
    rhOut := if resultCode s = .ok then rhField s.buf else s.rhOut
    resp := some (.result (resultCode s)) } := by
  by_cases code : resultCode s = .ok
  · rw [exec_getResult_of_ok code, if_pos code, if_pos code, code]
  · rw [exec_getResult_of_ne_ok rfl code, if_neg code, if_neg code]

/-- R59: the answer is read from registers that GET_RESULT does not write. -/
theorem resultCode_after_getResult (s : State) (x y : Half) (r : Option Response) :
    resultCode { s with tempOut := x, rhOut := y, resp := r } = resultCode s := rfl

/-- R59, R160: a second GET_RESULT writes what the first one wrote. -/
theorem exec_getResult_idempotent {s t : State} (h : exec .getResult s = .next t) : exec .getResult t = .next t := by
  by_cases code : resultCode s = .ok
  · cases (exec_getResult_of_ok code).symm.trans h
    exact exec_getResult_of_ok ((resultCode_after_getResult ..).trans code)
  · cases (exec_getResult_of_ne_ok rfl code).symm.trans h
    exact exec_getResult_of_ne_ok (resultCode_after_getResult ..) code

/-- The payload word's byte `i` is cell `i` (R79). -/
theorem payloadWord_byte (m : Memory) {i : Nat} (cell : i < 5) : (payloadWord m).extractLsb' (8 * i) 8 = m.read i := by
  obtain ⟨h4, h3, h2, h1, h0⟩ := joinCells_extract (m.read 4) (m.read 3) (m.read 2) (m.read 1) (m.read 0)
  interval_cases i
  exacts [h0, h1, h2, h3, h4]

/-! ### Views -/

/-- The five bits of a word joined from five bits. -/
theorem join_five_bits (a b c d e : Bool) :
    let w : BitVec 5 :=
      BitVec.ofBool a ++ BitVec.ofBool b ++ BitVec.ofBool c ++ BitVec.ofBool d ++ BitVec.ofBool e
    w.getLsbD 0 = e ∧ w.getLsbD 1 = d ∧ w.getLsbD 2 = c ∧ w.getLsbD 3 = b ∧ w.getLsbD 4 = a := by
  revert a b c d e
  decide

/-- R38, R78, R79: what the response ports show of each held response. -/
theorem outputs_of_none {s : State} (h : s.resp = none) :
    s.outputs.respCode = none ∧ s.outputs.respRaw = none ∧ s.outputs.respBitcnt = none := by
  simp [State.outputs, h]

theorem outputs_of_result {s : State} {c : ResultCode} (h : s.resp = some (.result c)) :
    s.outputs.respCode = some c.code ∧ s.outputs.respRaw = none ∧ s.outputs.respBitcnt = none := by
  simp [State.outputs, h]

theorem outputs_of_raw {s : State} {d : Payload} {n : BitCount} (h : s.resp = some (.raw d n)) :
    s.outputs.respCode = none ∧ s.outputs.respRaw = some d ∧ s.outputs.respBitcnt = some n := by
  simp [State.outputs, h]

/-- R38: a cycle with RESET, or with a command that gives no response, leaves the response ports empty. -/
theorem step_resp_none {s t : State} (h : step s = .next t)
    (silent : s.input.rst = true ∨ s.input.cmd ≠ 0b011#3 ∧ s.input.cmd ≠ 0b100#3) : t.resp = none := by
  rcases step_cases h with ⟨-, u, hu, rfl⟩ | ⟨noReset, u, v, hu, hv, rfl⟩
  · cases hu
    rfl
  · obtain ⟨-, -, -, -, cleared, -⟩ := exec_tick_frame hu
    obtain ⟨notResult, notRaw⟩ := silent.resolve_left (by simp [noReset])
    rcases exec_decodeCommand_cases hv with ⟨-, rfl⟩ | ⟨-, rfl⟩ | ⟨isResult, -, -⟩ | ⟨isRaw, -⟩ | ⟨-, -, -, -, rfl⟩
    · exact cleared
    · exact cleared
    · exact absurd isResult notResult
    · exact absurd isRaw notRaw
    · exact cleared

/-! ### What the operations do not read -/

/-- `s` with other values in `PHASE`, `LINE_PREV` and the list of inputs. -/
def State.relabel (p : Phase) (l : Bool) (i : List CycleInput) (s : State) : State :=
  { s with phase := p, linePrev := l, inputs := i }

section relabel
variable (p : Phase) (l : Bool) (i : List CycleInput)

/-- The handler of R145 reads none of the three, and writes at most `PHASE`. -/
theorem captureHandler_relabel (pw : Word) (s : State) :
    ∃ q, (p = s.phase → q = (captureHandler pw s).phase) ∧
      captureHandler pw (s.relabel p l i) = (captureHandler pw s).relabel q l i := by
  simp only [captureHandler, State.relabel]
  cases s.edge with
  | rising => exact ⟨p, id, rfl⟩
  | falling =>
    by_cases last : s.bitcnt = 0#6
    · exact ⟨.done, fun _ => by simp [last], by simp [last]; rfl⟩
    · exact ⟨p, fun same => by simp [last, same], by simp [last]; rfl⟩

/-- No event reads any of the three. -/
theorem raiseEvent_relabel {k : EventKind} {pw : Word} {s t : State} (h : raiseEvent k pw s = .next t) :
    ∃ q, (p = s.phase → q = t.phase) ∧ raiseEvent k pw (s.relabel p l i) = .next (t.relabel q l i) := by
  cases k with
  | overflow =>
    rw [raiseEvent_overflow_eq_exec] at h ⊢
    rw [State.relabel]
    dsimp only
    cases armed : s.capEn <;> rw [armed] at h <;> cases h
    · exact ⟨.listening, fun _ => rfl, rfl⟩
    · exact ⟨.timedOut, fun _ => rfl, rfl⟩
  | capture =>
    cases armed : s.capEn with
    | false =>
      cases (raiseEvent_capture_unarmed pw s armed).symm.trans h
      exact ⟨p, id, raiseEvent_capture_unarmed pw _ armed⟩
    | true =>
      cases (captureEventIsTheWholeHandler s pw armed).symm.trans h
      obtain ⟨q, kept, hq⟩ := captureHandler_relabel p l i pw s
      exact ⟨q, kept, (captureEventIsTheWholeHandler (s.relabel p l i) pw armed).trans (congrArg _ hq)⟩

/-- TICK reads neither `PHASE` nor the list of inputs. -/
theorem exec_tick_relabel {m : Bool} {s t : State} (h : exec (.tick m) s = .next t) :
    ∃ q, (p = s.phase → q = t.phase) ∧
      exec (.tick m) (s.relabel p s.linePrev i) = .next (t.relabel q t.linePrev i) := by
  obtain ⟨-, -, -, -, -, line⟩ := exec_tick_frame h
  rw [line]
  change execTick m s = .next t at h
  change ∃ q, _ ∧ execTick m (s.relabel p s.linePrev i) = _
  rcases execTick_cases m s with ⟨hr, hx⟩ | ⟨hr, armed, sel, hx⟩ | ⟨hr, quiet, hc, ho, hx⟩ | ⟨hr, quiet, hc, ho, hx⟩ |
    ⟨hr, quiet, hc, hx⟩ <;> rw [hx] at h
  · cases h
    exact ⟨p, id, execTick_stopped m (s.relabel p s.linePrev i) hr⟩
  · rw [execTick_capture m (s.relabel p s.linePrev i) hr armed sel]
    exact raiseEvent_relabel p m i h
  · rw [execTick_wrap m (s.relabel p s.linePrev i) hr quiet hc ho]
    exact raiseEvent_relabel p m i h
  · cases h
    exact ⟨p, id, execTick_silentWrap m (s.relabel p s.linePrev i) hr quiet hc ho⟩
  · cases h
    exact ⟨p, id, execTick_count m (s.relabel p s.linePrev i) hr quiet hc⟩

/-- No command reads any of the three. -/
theorem exec_decodeCommand_relabel {c : BitVec 3} {s t : State} (h : exec (decodeCommand c) s = .next t) :
    ∃ q, (p = s.phase → q = t.phase) ∧ exec (decodeCommand c) (s.relabel p l i) = .next (t.relabel q l i) := by
  by_cases isResult : c = 0b011#3
  · subst isResult
    cases (exec_getResult s).symm.trans h
    exact ⟨p, id, exec_getResult (s.relabel p l i)⟩
  by_cases isInit : c = 0b001#3
  · subst isInit
    cases h
    exact ⟨.idle, fun _ => rfl, rfl⟩
  by_cases isTrigger : c = 0b010#3
  · subst isTrigger
    cases h
    exact ⟨.driving, fun _ => rfl, rfl⟩
  · rw [decodeCommand, if_neg isInit, if_neg isTrigger, if_neg isResult] at h ⊢
    split_ifs at h ⊢ <;> cases h <;> exact ⟨p, id, rfl⟩

end relabel

end Sys2Proof.Machine

open Sys2Proof Sys2Proof.Machine

/-- Settles O43: neither TICK nor the command of the cycle reads `PHASE`, and RESET reads no register at all. -/
theorem phaseIsOnlyALabel : Obligations.PhaseIsOnlyALabel := by
  intro s t p h
  rcases step_cases h with ⟨reset, u, hu, rfl⟩ | ⟨noReset, u, v, hu, hv, rfl⟩
  · cases hu
    exact ⟨.idle, runCycle_reset { s with phase := p } reset⟩
  · obtain ⟨q, -, hq⟩ := exec_tick_relabel p s.inputs hu
    obtain ⟨q', -, hq'⟩ := exec_decodeCommand_relabel q u.linePrev s.inputs hv
    obtain ⟨-, inputs, line⟩ := exec_decodeCommand_frame hv
    obtain ⟨-, -, -, inputs', -⟩ := exec_tick_frame hu
    have same : v.relabel q' u.linePrev s.inputs = { v with phase := q' } := by
      rw [← line, ← clearResponse_inputs s, ← inputs', ← inputs]
      rfl
    rw [same] at hq'
    exact ⟨q', step_of_command (s := { s with phase := p }) noReset hq hq'⟩

/-- Settles O18: the value is `signMagnitude_toInt`'s, and negative zero is one field. -/
theorem signMagnitudeFieldHasItsSignedValue : Obligations.SignMagnitudeFieldHasItsSignedValue :=
  ⟨signMagnitude_toInt, by decide, by decide⟩

/-- Settles O20: INIT keeps `RUN = 0`, `COUNTER` and the buffer, on which alone the answer rests. -/
theorem initAndTheLabelsDoNotChangeTheAnswer : Obligations.InitAndTheLabelsDoNotChangeTheAnswer := by
  refine ⟨fun s t stopped h => ?init, fun s n p => resultCode_congr rfl rfl rfl,
    fun s stopped marked => resultCode_eq_timeout stopped (counter_eq_sentinel_iff.mpr marked)⟩
  case init =>
    cases (exec_init s).symm.trans h
    exact resultCode_congr stopped.symm rfl rfl

/-- Settles O21: each reading command writes its answer, and GET_RESULT the reading on `ok`, from registers it keeps. -/
theorem readingCommandsAreIdempotent : Obligations.ReadingCommandsAreIdempotent := by
  intro s t
  refine ⟨fun h => ?raw, fun h => ?result⟩
  case raw =>
    cases (exec_getRawData s).symm.trans h
    exact ⟨rfl, rfl⟩
  case result =>
    obtain ⟨ht, kept⟩ := exec_getResult_eq_next h
    have answer : t.resp = some (.result (resultCode s)) := by rw [ht]
    refine ⟨by rw [answer]; exact ht, fun refused => kept ?notOk, exec_getResult_idempotent h⟩
    intro ok
    simp [answer, ok] at refused

/-- Settles O29: the index from 40 on is no cell, and the decrement borrows at 0, after a store to cell 0 in CAP_FALL_BIT. -/
theorem capFallBitStopsOffItsRangeAndCapFallAckAtZero : Obligations.CapFallBitStopsOffItsRangeAndCapFallAckAtZero := by
  intro s pw
  refine ⟨fun above => ?noCell, fun zero => ?bitBorrow, fun zero => ?ackBorrow⟩
  case noCell =>
    have noCell : ¬ byteIndex s.bitcnt < bufCells := by unfold byteIndex bufCells; omega
    change execCapFallBit pw s = _
    rw [execCapFallBit, storeBit, storeCell, if_neg noCell]
    rfl
  case bitBorrow =>
    have cell : byteIndex s.bitcnt < bufCells := byteIndex_lt (by unfold ackLimit; omega)
    change execCapFallBit pw s = _
    rw [execCapFallBit, storeBit, storeCell_of_lt _ s cell, andThen_next, decrementBitcnt_of_zero (by exact zero)]
    rfl
  case ackBorrow =>
    change execCapFallAck pw s = _
    rw [execCapFallAck, decrementBitcnt_of_zero zero]
    rfl

/-- Settles O31: each of the operations leaves a state written out as a record in which these fields are kept. -/
theorem nonStoringOperationsKeepTheBuffer : Obligations.NonStoringOperationsKeepTheBuffer := by
  rintro i s t (rfl | rfl | rfl | rfl | rfl | rfl | rfl | rfl | rfl | ⟨pw, rfl⟩ | ⟨pw, rfl⟩) h
  case inr.inr.inl =>
    cases (exec_getResult s).symm.trans h
    simp
  case inr.inr.inr.inl =>
    cases h
    simp
  case inr.inr.inr.inr.inr.inr.inr.inr.inr.inr =>
    cases (exec_capFallAck pw (exec_capFallAck_inv h)).symm.trans h
    simp
  all_goals
    cases h
    exact ⟨fun _ => rfl, rfl, rfl, rfl, fun _ => ⟨rfl, rfl⟩, fun _ _ => rfl⟩

/-- Settles O32: the states are those of `exec_capFallBit` and `exec_capFallLast`, which differ from `s` in one write. -/
theorem storingCapturesWriteOneCell : Obligations.StoringCapturesWriteOneCell := by
  intro s t pw wf
  refine ⟨fun h => ?bit, fun h => ?last⟩
  case bit =>
    obtain ⟨pos, lt⟩ := exec_capFallBit_inv h
    cases (exec_capFallBit pw pos lt).symm.trans h
    exact ⟨fun a other => Memory.read_write_other s.buf _ a _ wf other, by simp⟩
  case last =>
    cases (exec_capFallLast pw s).symm.trans h
    exact ⟨fun a other => Memory.read_write_other s.buf 0 a _ wf other, by simp⟩

/-- Settles O33: of all that TICK can do only the capture event writes the buffer, and it writes one cell. -/
theorem tickWritesAtMostOneCell : Obligations.TickWritesAtMostOneCell := by
  intro s t l wf h
  obtain ⟨temp, rh, cfg, inputs, resp, line⟩ := exec_tick_frame h
  refine ⟨temp, rh, cfg, inputs, resp, line, ?_⟩
  rcases exec_tick_cases h with ⟨-, rfl⟩ | ⟨hr, armed, sel, rfl⟩ | ⟨-, -, -, -, rfl⟩ | ⟨-, -, -, -, -, rfl⟩ |
    ⟨-, -, -, -, rfl⟩ | ⟨-, -, -, rfl⟩
  case inr.inl =>
    obtain ⟨oneCell, noStore⟩ := captureHandler_buf s.counter (s := { s with linePrev := l, counter := 0#16 }) wf
    refine ⟨oneCell, fun notStored a => ?_⟩
    rw [noStore]
    rintro ⟨falling, lt⟩
    rcases selectedEdge_eq_true.mp sel with ⟨rising, -⟩ | ⟨-, high, low⟩
    · simp [rising] at falling
    · exact notStored ⟨hr, armed, falling, high, low, lt⟩
  all_goals exact ⟨fun _ _ => rfl, fun _ _ => rfl⟩

/-- Settles O34: TICK keeps the reading; of the commands only GET_RESULT on `ok` writes it. -/
theorem onlyOkOrResetChangesTheReading : Obligations.OnlyOkOrResetChangesTheReading := by
  intro s t h changed
  rcases step_cases h with ⟨reset, -⟩ | ⟨-, u, v, hu, hv, rfl⟩
  · exact .inl reset
  · obtain ⟨temp, rh, -⟩ := exec_tick_frame hu
    have changed' : ¬ (v.tempOut = u.tempOut ∧ v.rhOut = u.rhOut) := by
      rw [temp, rh]
      exact fun kept => changed.elim (· kept.1) (· kept.2)
    right
    rcases exec_decodeCommand_cases hv with ⟨-, rfl⟩ | ⟨-, rfl⟩ | ⟨isResult, hv', kept⟩ | ⟨-, rfl⟩ | ⟨-, -, -, -, rfl⟩
    · exact absurd ⟨rfl, rfl⟩ changed'
    · exact absurd ⟨rfl, rfl⟩ changed'
    · have ok : resultCode u = .ok := by_contra fun notOk => changed' (kept notOk)
      refine ⟨isResult, ?_⟩
      rw [endCycle_resp, hv', ok]
    · exact absurd ⟨rfl, rfl⟩ changed'
    · exact absurd ⟨rfl, rfl⟩ changed'

/-- Settles O35: the response of the cycle by its command, then what the ports show of it. -/
theorem portsShowRegistersAndTheCyclesResponse : Obligations.PortsShowRegistersAndTheCyclesResponse := by
  refine ⟨fun s t h => ⟨⟨rfl, rfl, rfl, rfl, rfl⟩, fun silent => outputs_of_none (step_resp_none h silent),
    fun noReset isResult => ?result, fun noReset isRaw => ?raw⟩, fun _ _ => outputs_of_result, fun _ _ _ => outputs_of_raw,
    ⟨rfl, rfl, rfl, rfl⟩, rfl, rfl, rfl, rfl, rfl⟩
  case result =>
    rcases step_cases h with ⟨reset, -⟩ | ⟨-, u, v, hu, hv, rfl⟩
    · simp [noReset] at reset
    · rw [isResult] at hv
      cases (exec_getResult u).symm.trans hv
      exact ⟨u, hu, outputs_of_result rfl⟩
  case raw =>
    rcases step_cases h with ⟨reset, -⟩ | ⟨-, u, v, hu, hv, rfl⟩
    · simp [noReset] at reset
    · rw [isRaw] at hv
      cases (exec_getRawData u).symm.trans hv
      obtain ⟨code, raw, bitcnt⟩ := outputs_of_raw (s := State.endCycle { u with
        resp := some (.raw (payloadWord u.buf) u.bitcnt) }) rfl
      exact ⟨u, _, hu, code, raw, bitcnt, fun i cell => payloadWord_byte u.buf cell⟩

/-- Settles O36: the bits in the order they are joined in. -/
theorem ctrlHasItsLayout : Obligations.CtrlHasItsLayout := by
  intro s
  obtain ⟨b0, b1, b2, b3, b4⟩ := join_five_bits s.drive s.edge.bit s.capEn s.ovfEn s.run
  exact ⟨b0, b1, b2, by rw [← Edge.bit_eq_true]; exact iff_of_eq (congrArg (· = true) b3), b4⟩

/-- Settles O44: TRIGGER_READ writes its registers on whatever TICK left, and TICK keeps the reading and the parameters. -/
theorem triggerReadOverridesTheCyclesEvent : Obligations.TriggerReadOverridesTheCyclesEvent := by
  intro s t noReset isTrigger h
  rcases step_cases h with ⟨reset, -⟩ | ⟨-, u, v, hu, hv, rfl⟩
  · simp [noReset] at reset
  · rw [isTrigger] at hv
    cases (exec_triggerRead u).symm.trans hv
    obtain ⟨temp, rh, cfg, -⟩ := exec_tick_frame hu
    exact ⟨rfl, Memory.read_zeroed, rfl, rfl, rfl, rfl, rfl, congrArg preload cfg, temp, rh⟩
end

section
/-! Decoder, encoder and the rows of the opcode table (spec 30_encoding R71 to R77, R90). -/

namespace Sys2Proof

/-- A row says nothing of the operand that stands beside the word (log 9). -/
theorem row_toInstr (op : EventOp) (pw : Word) : (op.toInstr pw).row = (op.toInstr 0#16).row := by
  cases op <;> rfl

/-- Whether an EVT word fits a row does not depend on the operand beside it. -/
theorem fits_evt (r : OpcodeRow) (w : BitVec 5) (pw : Word) : r.fits (.evt w pw) = r.fits (.evt w 0#16) := rfl

/-- Every event operation is selected by some word. -/
theorem wellFormed_toInstr (op : EventOp) (pw : Word) : (op.toInstr pw).wellFormed = true := by
  cases op <;> rfl

/-- A CYC word fits the row of the operation it decodes to, which is one that a word selects. -/
theorem decodeCyc_fits (w : BitVec 4) : (decodeCyc w).wellFormed = true ∧ (decodeCyc w).row.fits (.cyc w) = true := by
  revert w
  decide

/-- An EVT word fits the row of the event operation it selects. -/
theorem decodeEventOp_fits {w : BitVec 5} {op : EventOp} (h : decodeEventOp w = .ok op) :
    (op.toInstr 0#16).row.fits (.evt w 0#16) = true := by
  have table : ∀ w : BitVec 5,
      (match decodeEventOp w with | .ok op => (op.toInstr 0#16).row.fits (.evt w 0#16) | .error _ => true) = true := by
    decide
  simpa [h] using table w

/-- A word fits the row of the operation it decodes to, which is one that a word selects. -/
theorem decode_fits {w : OpWord} {i : Instr} (h : decode w = .ok i) : i.wellFormed = true ∧ i.row.fits w = true := by
  cases w with
  | cyc w =>
    cases h
    exact decodeCyc_fits w
  | evt w pw =>
    obtain ⟨op, hop, rfl⟩ := Machine.decode_evt_eq_ok.mp h
    exact ⟨wellFormed_toInstr op pw, by rw [row_toInstr, fits_evt, decodeEventOp_fits hop]⟩

/-- Every operation that a word selects has a word, and decoding that word gives the operation back. -/
theorem decode_encode {i : Instr} (wf : i.wellFormed = true) : ∃ w, encode i = some w ∧ decode w = .ok i := by
  cases i with
  | tick l => cases wf
  | _ => exact ⟨_, rfl, rfl⟩

/-- The rows of the operations that a word selects: the opcode table without TICK's row (R72). -/
def selectableRows : List OpcodeRow :=
  [Instr.reset, .nop, .init, .triggerRead, .getResult, .getRawData, .reserved5, .reserved6, .reserved7, .ovfStartEnd,
    .ovfTimeout, .capRise 0#16, .capFallAck 0#16, .capFallBit 0#16, .capFallLast 0#16].map Instr.row

/-- The list holds the row of every operation that a word selects. -/
theorem row_mem_selectableRows {i : Instr} (wf : i.wellFormed = true) : i.row ∈ selectableRows := by
  cases i with
  | tick l => cases wf
  | _ => simp [selectableRows, Instr.row]

/-- No two rows share a CYC word. -/
theorem rows_disjoint_cyc (w : BitVec 4) : ∀ r ∈ selectableRows, ∀ r' ∈ selectableRows,
    r.fits (.cyc w) = true → r'.fits (.cyc w) = true → r' = r := by
  revert w
  decide

/-- No two rows share an EVT word. -/
theorem rows_disjoint_evt (w : BitVec 5) : ∀ r ∈ selectableRows, ∀ r' ∈ selectableRows,
    r.fits (.evt w 0#16) = true → r'.fits (.evt w 0#16) = true → r' = r := by
  revert w
  decide

/-- No word fits the rows of two operations that a word selects, unless they are one row. -/
theorem row_unique {w : OpWord} {i j : Instr} (wfi : i.wellFormed = true) (wfj : j.wellFormed = true)
    (fi : i.row.fits w = true) (fj : j.row.fits w = true) : j.row = i.row := by
  have mi := row_mem_selectableRows wfi
  have mj := row_mem_selectableRows wfj
  cases w with
  | cyc w => exact rows_disjoint_cyc w _ mi _ mj fi fj
  | evt w pw => exact rows_disjoint_evt w _ mi _ mj fi fj

end Sys2Proof

open Sys2Proof Sys2Proof.Machine

/-- Settles O37: the bits that the selection does not read range over a table; the PulseWidth is only passed on. -/
theorem tableWordsDecodeAsTheSpecSays : Obligations.TableWordsDecodeAsTheSpecSays := by
  have startEnd : ∀ x : BitVec 3, decodeEventOp (0b00#2 ++ x) = .ok .ovfStartEnd := by decide
  have timeout : ∀ x : BitVec 3, decodeEventOp (0b01#2 ++ x) = .ok .ovfTimeout := by decide
  have rise : ∀ x : BitVec 2, decodeEventOp (0b111#3 ++ x) = .ok .capRise := by decide
  have notArmed : ∀ x : BitVec 3, decodeEventOp (0b10#2 ++ x) = .error .captureNotArmed := by decide
  refine ⟨by decide, rfl, rfl, rfl, rfl, rfl, rfl, rfl, rfl, fun pw => ⟨fun x => ?_, fun x => ?_, fun x => ?_, rfl, rfl, rfl,
    fun x => ?_, rfl⟩⟩
  · exact decode_evt_eq_ok.mpr ⟨_, startEnd x, rfl⟩
  · exact decode_evt_eq_ok.mpr ⟨_, timeout x, rfl⟩
  · exact decode_evt_eq_ok.mpr ⟨_, rise x, rfl⟩
  · rw [decode, notArmed]

/-- Settles O38: `decode_encode`, `decode_fits` and `row_unique`. -/
theorem decodeAndEncodeAgree : Obligations.DecodeAndEncodeAgree := by
  refine ⟨fun i => decode_encode, fun w i h => ?_, fun w i j wf fits h => ?_⟩
  · obtain ⟨wf, fits⟩ := decode_fits h
    obtain ⟨v, hv, hd⟩ := decode_encode wf
    exact ⟨wf, fits, v, hv, (decode_fits hd).2⟩
  · obtain ⟨wfj, fitsj⟩ := decode_fits h
    exact row_unique wf wfj fits fitsj
end

section
/-! The event-level abstraction: its free events, and that it follows every TICK and every cycle of the block (spec
40_timer_gpio R113). -/

namespace Sys2Proof.Machine

open Sys2Proof

/-! ### Free events -/

/-- R113: a capture event with the capture unit armed is the handler of R145 on the cleared counter. -/
theorem applyCapture_of_armed (pw : Word) {s : State} (armed : s.capEn = true) :
    Script.applyCapture pw s = .next (captureHandler pw { s with counter := 0#16 }) :=
  captureEventIsTheWholeHandler (s.loadCounter 0#16) pw armed

/-- R131: an overflow event with the capture unit not yet armed ends the request pulse. -/
theorem applyOverflow_of_unarmed {s : State} (unarmed : s.capEn = false) : Script.applyOverflow s = .next { s with
    drive := false, counter := 0#16, edge := .falling, capEn := true, phase := .listening } := by
  rw [Script.applyOverflow, raiseEvent_overflow_eq_exec, loadCounter_capEn, unarmed]
  rfl

/-- R132: an overflow event with the capture unit armed is the timeout. -/
theorem applyOverflow_of_armed {s : State} (armed : s.capEn = true) : Script.applyOverflow s = .next { s with
    ovfEn := false, capEn := false, run := false, counter := sentinel, phase := .timedOut } := by
  rw [Script.applyOverflow, raiseEvent_overflow_eq_exec, loadCounter_capEn, armed]
  rfl

/-! ### Agreement -/

/-- R113: the abstraction differs from the block in an untracked counter and an untracked line at most. -/
theorem agrees_iff {s a : State} :
    Agrees s a ↔ ∃ v l, a = { s with counter := v, linePrev := l } ∧ (s.run = false → v = s.counter) := by
  constructor
  · rintro ⟨ha, stopped⟩
    exact ⟨a.counter, a.linePrev, ha, stopped⟩
  · rintro ⟨v, l, rfl, stopped⟩
    exact ⟨rfl, stopped⟩

/-- The handler of R145 does not read `LINE_PREV`. -/
theorem captureHandler_linePrev (pw : Word) (s : State) (l : Bool) :
    captureHandler pw { s with linePrev := l } = { captureHandler pw s with linePrev := l } := by
  obtain ⟨q, same, h⟩ := captureHandler_relabel s.phase l s.inputs pw s
  obtain ⟨-, -, -, -, -, -, inputs, -⟩ := captureHandler_frame pw s
  exact h.trans (by rw [same rfl, State.relabel, ← inputs])

/-- No command reads `LINE_PREV`. -/
theorem exec_decodeCommand_linePrev {c : BitVec 3} {s t : State} (l : Bool) (h : exec (decodeCommand c) s = .next t) :
    exec (decodeCommand c) { s with linePrev := l } = .next { t with linePrev := l } := by
  obtain ⟨q, same, h'⟩ := exec_decodeCommand_relabel s.phase l s.inputs h
  obtain ⟨-, inputs, -⟩ := exec_decodeCommand_frame h
  exact h'.trans (by rw [same rfl, State.relabel, ← inputs])

end Sys2Proof.Machine

open Sys2Proof Sys2Proof.Machine

/-- Settles O13: sampling, counting and the silent wrap are not seen; the capture event and the two overflow events are free
events, with the counter as PulseWidth. -/
theorem freeEventsCoverEveryTick : Obligations.FreeEventsCoverEveryTick := by
  intro s a t l agrees h
  obtain ⟨v, p, rfl, stopped⟩ := agrees_iff.mp agrees
  rcases exec_tick_cases h with ⟨-, rfl⟩ | ⟨hr, armed, -, rfl⟩ | ⟨hr, unarmed, ho, -, rfl⟩ | ⟨hr, armed, ho, -, -, rfl⟩ |
    ⟨hr, -, -, -, rfl⟩ | ⟨hr, -, -, rfl⟩
  · exact .inl ⟨rfl, stopped⟩
  · refine .inr ⟨_, .capture s.counter _ _ hr armed (applyCapture_of_armed _ armed), ?_⟩
    rw [captureHandler_linePrev _ { s with counter := 0#16 } l, captureHandler_linePrev _ { s with counter := 0#16 } p]
    exact ⟨rfl, fun _ => rfl⟩
  · exact .inr ⟨_, .overflow _ _ hr ho (applyOverflow_of_unarmed unarmed), rfl, fun _ => rfl⟩
  · exact .inr ⟨_, .overflow _ _ hr ho (applyOverflow_of_armed armed), rfl, fun _ => rfl⟩
  · exact .inl ⟨rfl, fun hs => absurd (hr.symm.trans hs) (by decide)⟩
  · exact .inl ⟨rfl, fun hs => absurd (hr.symm.trans hs) (by decide)⟩

/-- Settles O53: the two constructors of a free event, with the state each leads to written out. -/
theorem freeEventsAreTheTwoEnabledEvents : Obligations.FreeEventsAreTheTwoEnabledEvents := by
  intro s t
  constructor
  · rintro (⟨pw, _, _, hr, armed, h⟩ | ⟨_, _, hr, ho, h⟩)
    · cases (applyCapture_of_armed pw armed).symm.trans h
      exact .inl ⟨hr, armed, pw, rfl⟩
    · cases armed : s.capEn
      · cases (applyOverflow_of_unarmed armed).symm.trans h
        exact .inr (.inl ⟨hr, ho, rfl, rfl⟩)
      · cases (applyOverflow_of_armed armed).symm.trans h
        exact .inr (.inr ⟨hr, ho, rfl, rfl⟩)
  · rintro (⟨hr, armed, pw, rfl⟩ | ⟨hr, ho, unarmed, rfl⟩ | ⟨hr, ho, armed, rfl⟩)
    · exact .capture pw s _ hr armed (applyCapture_of_armed pw armed)
    · exact .overflow s _ hr ho (applyOverflow_of_unarmed unarmed)
    · exact .overflow s _ hr ho (applyOverflow_of_armed armed)

namespace Sys2Proof.Machine

/-! ### Cycles -/

/-- R113: whatever TICK does, the abstraction reaches the same state, its line apart, before the cycle's operation. -/
theorem abstractRun_of_tick {l : Bool} {s a u : State} (agrees : Agrees s a) (h : exec (.tick l) s = .next u) :
    ∃ p, ∀ {ops : List Instr} {w : State}, AbstractRun ops { u with linePrev := p } w → AbstractRun ops a w := by
  rcases freeEventsCoverEveryTick s a u l agrees h with same | ⟨b, event, same⟩
  · exact ⟨a.linePrev, AbstractRun.track same⟩
  · exact ⟨b.linePrev, fun rest => .event event (AbstractRun.track same rest)⟩

/-- Agreeing states meet the same word in their next cycle. -/
theorem fetchWord_of_agrees {s a : State} (agrees : Agrees s a) : a.fetchWord = s.fetchWord := by
  rw [agrees.1]
  rfl

/-- R113: the abstraction follows one cycle of the block, under any input. -/
theorem abstractCycle_of_step {s a t : State} (agrees : Agrees s a) (h : step s = .next t) :
    ∃ b, AbstractCycle a b ∧ Agrees t b := by
  have agrees' : Agrees s.clearResponse a.clearResponse := (agrees_bookkeeping agrees).1
  have word : decodeCyc a.fetchWord = if s.input.rst = true then .reset else decodeCommand s.input.cmd := by
    rw [fetchWord_of_agrees agrees, State.fetchWord, decodeCyc_word]
  rcases step_cases h with ⟨reset, u, hu, rfl⟩ | ⟨noReset, u, v, hu, hv, rfl⟩
  · have same : exec .reset a.clearResponse = exec .reset s.clearResponse := by
      rw [agrees'.1]
      rfl
    have operation : exec (decodeCyc a.fetchWord) a.clearResponse = .next u := by
      rw [word, if_pos reset, same, hu]
    exact ⟨u.endCycle, ⟨u, .operation a.fetchWord operation (.stop u), rfl⟩, agrees_refl _⟩
  · obtain ⟨p, run⟩ := abstractRun_of_tick agrees' hu
    have operation : exec (decodeCyc a.fetchWord) { u with linePrev := p } = .next { v with linePrev := p } := by
      rw [word, if_neg (by simp [noReset])]
      exact exec_decodeCommand_linePrev p hv
    exact ⟨_, ⟨_, run (.operation a.fetchWord operation (.stop _)), rfl⟩, rfl, fun _ => rfl⟩

/-- R113, and so any number of cycles. -/
theorem abstractCycles_of_cycles {n : Nat} {s a t : State} (agrees : Agrees s a) (h : cycles n s = .next t) :
    ∃ b, AbstractCycles n a b ∧ Agrees t b := by
  induction n generalizing s a with
  | zero => exact ⟨a, rfl, Host.Outcome.next.inj h ▸ agrees⟩
  | succ n ih =>
    obtain ⟨u, hu, ht⟩ := cycles_succ_eq_next.mp h
    obtain ⟨c, hc, same⟩ := abstractCycle_of_step agrees hu
    obtain ⟨b, hb, same'⟩ := ih same ht
    exact ⟨b, ⟨c, hc, hb⟩, same'⟩

/-- A listening state whose counter is far from its overflow: the abstraction may time out, the block may not. -/
def silentListener : State :=
  { State.reset with run := true, ovfEn := true, capEn := true, phase := .listening }

/-- The abstraction times out at once. -/
theorem silentListener_may_time_out : AbstractCycle silentListener
    { silentListener with ovfEn := false, capEn := false, run := false, counter := sentinel, phase := .timedOut } :=
  ⟨_, .event (.overflow _ _ rfl rfl (applyOverflow_of_armed rfl)) (.operation 0b0000#4 rfl (.stop _)), rfl⟩

/-- The block goes on to listen. -/
theorem step_silentListener {t : State} (h : step silentListener = .next t) : t.phase = .listening := by
  cases h
  rfl

end Sys2Proof.Machine

/-- Settles O54: a cycle by O13 and the operation's independence of the line, a run by induction, and `silentListener` for the
behaviour that is the abstraction's alone. -/
theorem theEventLevelAbstractionAdmitsEveryRun : Obligations.TheEventLevelAbstractionAdmitsEveryRun := by
  refine ⟨fun s a t => abstractCycle_of_step, fun n s a t => abstractCycles_of_cycles, fun s a agrees stopped => ?exact,
    silentListener, silentListener, _, by decide, agrees_refl _, silentListener_may_time_out, fun t ht agrees => ?strict⟩
  case exact =>
    obtain ⟨v, l, rfl, same⟩ := agrees_iff.mp agrees
    rw [same stopped]
  case strict =>
    have phase := congrArg State.phase agrees.1
    simp [step_silentListener ht] at phase
end

section
/-! Timing: a cycle under a passive host, the request pulse, the silent cycles of a listening block, and the bound on a
conversion (spec 40_timer_gpio R108, 41_start_pulse_driver R121, 70_reset_and_hazards R253). -/

namespace Sys2Proof.Machine

open Sys2Proof

/-! ### Runs -/

/-- Two runs one after the other are one run. -/
theorem cycles_add (m n : Nat) (s : State) : cycles (m + n) s = andThen (cycles m s) (cycles n) := by
  induction m generalizing s with
  | zero => rw [Nat.zero_add, cycles, andThen_next]
  | succ m ih =>
    have unroll : ∀ k, cycles (k + 1) s = andThen (step s) (cycles k) := fun _ => rfl
    rw [Nat.add_right_comm, unroll, unroll, andThen_assoc, funext ih]

/-- A run and one more cycle. -/
theorem cycles_succ_of {n : Nat} {s u t : State} (run : cycles n s = .next u) (last : step u = .next t) :
    cycles (n + 1) s = .next t := by
  rw [cycles_add, run, andThen_next, cycles, last, andThen_next, cycles]

/-- A property that moves with the number of cycles: it holds at the start, and each of the first `N` cycles takes it one
further. -/
theorem cycles_indexed {P : Nat → State → Prop} {N : Nat} {s : State} (start : P 0 s)
    (next : ∀ n < N, ∀ u t, P n u → step u = .next t → P (n + 1) t) :
    ∀ n ≤ N, ∃ u, cycles n s = .next u ∧ P n u := by
  intro n le
  induction n with
  | zero => exact ⟨s, rfl, start⟩
  | succ n ih =>
    obtain ⟨u, hu, hP⟩ := ih (by omega)
    obtain ⟨t, ht⟩ := step_completes u
    exact ⟨t, cycles_succ_of hu ht, next n (by omega) u t hP ht⟩

/-! ### A cycle under a passive host -/

/-- A passive host's input neither resets, nor stops, nor starts. -/
theorem passive_iff {x : CycleInput} : x.passive = true ↔ x.rst = false ∧ x.cmd ≠ 0b001#3 ∧ x.cmd ≠ 0b010#3 := by
  simp only [CycleInput.passive, Bool.and_eq_true, Bool.not_eq_true', decide_eq_true_eq, and_assoc]

/-- With a passive host the present input is passive, listed or not (log 5). -/
theorem input_passive {s : State} (host : s.hostPassive = true) : s.input.passive = true := by
  unfold State.hostPassive at host
  unfold State.input
  cases hin : s.inputs with
  | nil => rfl
  | cons x rest => exact List.all_eq_true.mp host x (by simp [hin])

/-- A passive host stays one. -/
theorem hostPassive_step {s t : State} (host : s.hostPassive = true) (h : step s = .next t) : t.hostPassive = true := by
  unfold State.hostPassive at host ⊢
  rw [(step_frame h).2]
  exact List.all_eq_true.mpr fun x hx => List.all_eq_true.mp host x (List.mem_of_mem_tail hx)

/-- With a passive host a cycle is its TICK, the reading and the response apart (R59, R181). -/
theorem step_passive {s t : State} (host : s.hostPassive = true) (h : step s = .next t) :
    ∃ u, exec (.tick s.lineIn) s.clearResponse = .next u ∧
      t = { u with tempOut := t.tempOut, rhOut := t.rhOut, resp := t.resp, inputs := t.inputs } := by
  obtain ⟨noReset, noInit, noTrigger⟩ := passive_iff.mp (input_passive host)
  rcases step_cases h with ⟨reset, -⟩ | ⟨-, u, v, hu, hv, rfl⟩
  · simp [noReset] at reset
  · refine ⟨u, hu, ?_⟩
    rcases exec_decodeCommand_cases hv with ⟨init, -⟩ | ⟨trigger, -⟩ | ⟨-, hv', -⟩ | ⟨-, rfl⟩ | ⟨-, -, -, -, rfl⟩
    · exact absurd init noInit
    · exact absurd trigger noTrigger
    · rw [hv']
      rfl
    · rfl
    · rfl

/-! ### The request pulse -/

/-- The block `n` cycles into a request pulse, with the buffer `m` (R121). -/
structure InPulse (m : Memory) (n : Nat) (s : State) : Prop where
  drive : s.drive = true
  phase : s.phase = .driving
  run : s.run = true
  ovfEn : s.ovfEn = true
  capEn : s.capEn = false
  counter : s.counter.toNat + s.cfg.startTicks = 65536 + n
  bitcnt : s.bitcnt = 41#6
  buf : s.buf = m
  host : s.hostPassive = true

/-- The parameters' bounds (R9). -/
theorem config_wf_iff {c : Config} : c.wf = true ↔ 1 ≤ c.startTicks ∧ c.startTicks ≤ 65536 := by
  simp [Config.wf]

/-- TRIGGER_READ begins a pulse (R120). -/
theorem inPulse_of_trigger {s t : State} (bounds : Config.wf s.cfg = true) (h : exec .triggerRead s = .next t)
    (host : t.hostPassive = true) : InPulse t.buf 0 t := by
  cases (exec_triggerRead s).symm.trans h
  obtain ⟨one, top⟩ := config_wf_iff.mp bounds
  have counter : (preload s.cfg).toNat + s.cfg.startTicks = 65536 + 0 := by
    rw [preload_toNat]
    omega
  exact ⟨rfl, rfl, rfl, rfl, rfl, counter, rfl, rfl, host⟩

/-- With `CAP_EN = 0` and `OVF_EN = 1` a running TICK counts, or ends the pulse at `CMAX`. -/
theorem exec_tick_in_pulse {l : Bool} {s t : State} (run : s.run = true) (ovfEn : s.ovfEn = true) (capEn : s.capEn = false)
    (h : exec (.tick l) s = .next t) :
    (s.counter ≠ cmax ∧ t = { s with linePrev := l, counter := s.counter + 1#16 }) ∨
    (s.counter = cmax ∧ t = { s with
      linePrev := l, drive := false, counter := 0#16, edge := .falling, capEn := true, phase := .listening }) := by
  rcases exec_tick_cases h with ⟨stopped, -⟩ | ⟨-, armed, -⟩ | ⟨-, -, -, top, ht⟩ | ⟨-, armed, -⟩ | ⟨-, masked, -⟩ |
    ⟨-, below, -, ht⟩
  · simp [run] at stopped
  · simp [capEn] at armed
  · exact .inr ⟨top, ht⟩
  · simp [capEn] at armed
  · simp [ovfEn] at masked
  · exact .inl ⟨below, ht⟩

/-- R121: a cycle in which the pulse does not end leads one cycle further into it. -/
theorem InPulse.step {m : Memory} {n : Nat} {s t : State} (pulse : InPulse m n s) (goesOn : n + 1 < s.cfg.startTicks)
    (h : step s = .next t) : InPulse m (n + 1) t := by
  obtain ⟨u, hu, ht⟩ := step_passive pulse.host h
  rcases exec_tick_in_pulse (s := s.clearResponse) pulse.run pulse.ovfEn pulse.capEn hu with ⟨below, rfl⟩ | ⟨top, -⟩
  · have counts := counter_add_one_toNat (v := s.counter) below
    have counter : (s.counter + 1#16).toNat + s.cfg.startTicks = 65536 + (n + 1) := by
      have := pulse.counter
      omega
    have host := hostPassive_step pulse.host h
    rw [ht] at host ⊢
    exact ⟨pulse.drive, pulse.phase, pulse.run, pulse.ovfEn, pulse.capEn, counter, pulse.bitcnt, pulse.buf, host⟩
  · have := pulse.counter
    have := counter_eq_sentinel_iff.mp top
    rw [clearResponse_counter] at this
    omega

/-- The block right after a request pulse, with the buffer `m` (R131). -/
structure PulseOver (m : Memory) (s : State) : Prop where
  drive : s.drive = false
  phase : s.phase = .listening
  run : s.run = true
  ovfEn : s.ovfEn = true
  capEn : s.capEn = true
  edge : s.edge = .falling
  counter : s.counter = 0#16
  bitcnt : s.bitcnt = 41#6
  buf : s.buf = m
  host : s.hostPassive = true

/-- R121: the cycle that wraps the counter ends the pulse. -/
theorem InPulse.last {m : Memory} {n : Nat} {s t : State} (pulse : InPulse m n s) (ends : n + 1 = s.cfg.startTicks)
    (h : Machine.step s = .next t) : PulseOver m t := by
  obtain ⟨u, hu, ht⟩ := step_passive pulse.host h
  have top : s.counter = cmax := counter_eq_sentinel_iff.mpr (by have := pulse.counter; omega)
  rcases exec_tick_in_pulse (s := s.clearResponse) pulse.run pulse.ovfEn pulse.capEn hu with ⟨below, -⟩ | ⟨-, rfl⟩
  · exact absurd top below
  · have host := hostPassive_step pulse.host h
    rw [ht] at host ⊢
    exact ⟨rfl, rfl, pulse.run, pulse.ovfEn, rfl, rfl, rfl, pulse.bitcnt, pulse.buf, host⟩

/-- R108 (d): from TRIGGER_READ the pulse lasts for all but the last of `START_TICKS` cycles. -/
theorem inPulse_cycles {m : Memory} {t : State} (pulse : InPulse m 0 t) :
    ∀ n, n < t.cfg.startTicks → ∃ u, cycles n t = .next u ∧ InPulse m n u ∧ u.cfg = t.cfg := by
  intro n lt
  refine cycles_indexed (P := fun k u => InPulse m k u ∧ u.cfg = t.cfg) (N := t.cfg.startTicks - 1) ⟨pulse, rfl⟩ ?_ n (by omega)
  rintro k hk u v ⟨hu, cfg⟩ hv
  exact ⟨hu.step (by rw [cfg]; omega) hv, (step_frame hv).1.trans cfg⟩

/-- R108 (d): and the last of them ends it. -/
theorem pulseOver_cycles {m : Memory} {t : State} (bounds : Config.wf t.cfg = true) (pulse : InPulse m 0 t) :
    ∃ u, cycles t.cfg.startTicks t = .next u ∧ PulseOver m u := by
  obtain ⟨one, -⟩ := config_wf_iff.mp bounds
  obtain ⟨u, hu, last, cfg⟩ := inPulse_cycles pulse (t.cfg.startTicks - 1) (by omega)
  obtain ⟨v, hv⟩ := step_completes u
  have count : t.cfg.startTicks - 1 + 1 = t.cfg.startTicks := by omega
  exact ⟨v, count ▸ cycles_succ_of hu hv, last.last (by rw [cfg, count]) hv⟩

/-! ### Silent cycles -/

/-- The block `n` cycles into a silence of `N` cycles that began in `s₀` with the counter at 0 (R108). -/
structure Silent (s₀ : State) (N n : Nat) (s : State) : Prop where
  run : s.run = true
  capEn : s.capEn = true
  drive : s.drive = false
  counter : s.counter.toNat = n
  ovfEn : s.ovfEn = s₀.ovfEn
  edge : s.edge = s₀.edge
  bitcnt : s.bitcnt = s₀.bitcnt
  buf : s.buf = s₀.buf
  phase : s.phase = s₀.phase
  host : s.hostPassive = true
  listed : N ≤ n + s.inputs.length
  quiet : noEdge s.edge s.linePrev (s.inputs.take (N - n)) = true

/-- With the line released its level is the input's. -/
theorem lineIn_of_released {s : State} (released : s.drive = false) : s.lineIn = s.input.releasedLevel := by
  rw [State.lineIn, released, CycleInput.releasedLevel]

/-- In a silent cycle there is no selected edge, and the rest of the silence stands before the next one. -/
theorem Silent.present {s₀ s : State} {N n : Nat} (silent : Silent s₀ N n s) (before : n < N) :
    selectedEdge s.edge s.linePrev s.lineIn = false ∧
      noEdge s.edge s.lineIn (s.inputs.tail.take (N - (n + 1))) = true := by
  have listed := silent.listed
  have quiet := silent.quiet
  rw [lineIn_of_released silent.drive, State.input]
  cases inputs : s.inputs with
  | nil =>
    rw [inputs, List.length_nil] at listed
    omega
  | cons x rest =>
    rw [inputs, show N - n = N - (n + 1) + 1 by omega, List.take_succ_cons, noEdge, Bool.and_eq_true] at quiet
    exact ⟨by simpa using quiet.1, quiet.2⟩

/-- Everything a silent TICK of a listening block does: it counts, or it wraps at `CMAX`. -/
theorem exec_tick_silent {l : Bool} {s t : State} (run : s.run = true) (capEn : s.capEn = true)
    (noEdge : selectedEdge s.edge s.linePrev l = false) (h : exec (.tick l) s = .next t) :
    (s.counter ≠ cmax ∧ t = { s with linePrev := l, counter := s.counter + 1#16 }) ∨
    (s.counter = cmax ∧ s.ovfEn = true ∧ t = { s with
      linePrev := l, ovfEn := false, capEn := false, run := false, counter := sentinel, phase := .timedOut }) ∨
    (s.counter = cmax ∧ s.ovfEn = false) := by
  rcases exec_tick_cases h with ⟨stopped, -⟩ | ⟨-, -, sel, -⟩ | ⟨-, unarmed, -⟩ | ⟨-, -, ho, top, -, ht⟩ |
    ⟨-, masked, top, -⟩ | ⟨-, below, -, ht⟩
  · simp [run] at stopped
  · simp [noEdge] at sel
  · simp [capEn] at unarmed
  · exact .inr (.inl ⟨top, ho, ht⟩)
  · exact .inr (.inr ⟨top, masked⟩)
  · exact .inl ⟨below, ht⟩

/-- R108 (a): a silent cycle below `CMAX` counts. -/
theorem Silent.step {s₀ s t : State} {N n : Nat} (silent : Silent s₀ N n s) (before : n < N) (below : n < 65535)
    (h : step s = .next t) : Silent s₀ N (n + 1) t := by
  obtain ⟨noEdge, rest⟩ := silent.present before
  obtain ⟨u, hu, ht⟩ := step_passive silent.host h
  have notTop : s.counter ≠ cmax := mt counter_eq_sentinel_iff.mp (by have := silent.counter; omega)
  have listed : N ≤ n + 1 + t.inputs.length := by
    have := silent.listed
    rw [(step_frame h).2, List.length_tail]
    omega
  have rest' : Machine.noEdge s.edge s.lineIn (t.inputs.take (N - (n + 1))) = true := by
    rw [(step_frame h).2]
    exact rest
  have host := hostPassive_step silent.host h
  rcases exec_tick_silent (s := s.clearResponse) silent.run silent.capEn noEdge hu with ⟨-, rfl⟩ | ⟨top, -⟩ | ⟨top, -⟩
  · have counter : (s.counter + 1#16).toNat = n + 1 := by rw [counter_add_one_toNat notTop, silent.counter]
    rw [ht] at host listed rest' ⊢
    exact ⟨silent.run, silent.capEn, silent.drive, counter, silent.ovfEn, silent.edge, silent.bitcnt, silent.buf,
      silent.phase, host, listed, rest'⟩
  · exact absurd top notTop
  · exact absurd top notTop

/-- R108 (a): as many silent cycles as the counter has values below `CMAX` are all counted. -/
theorem silent_cycles {s : State} {N : Nat} (run : s.run = true) (capEn : s.capEn = true) (drive : s.drive = false)
    (counter : s.counter = 0#16) (host : s.hostPassive = true) (listed : N ≤ s.inputs.length)
    (quiet : noEdge s.edge s.linePrev (s.inputs.take N) = true) :
    ∀ n, n ≤ N → n ≤ 65535 → ∃ u, cycles n s = .next u ∧ Silent s N n u := by
  intro n le top
  have start : Silent s N 0 s := ⟨run, capEn, drive, by rw [counter]; rfl, rfl, rfl, rfl, rfl, rfl, host, by omega, quiet⟩
  refine cycles_indexed (N := n) start (fun k hk u v hu hv => ?_) n le_rfl
  exact hu.step (by omega) (by omega) hv

/-! ### The bound on a conversion -/

/-- A listening block that a passive host leaves alone. -/
structure Listens (s : State) : Prop where
  run : s.run = true
  ovfEn : s.ovfEn = true
  capEn : s.capEn = true
  host : s.hostPassive = true

/-- The edges still to come before the last one, each with a whole counter period before it, less what the counter shows: the
cycles a conversion may still take (R253). -/
def cyclesLeft (s : State) : Nat :=
  (2 * s.bitcnt.toNat + (match s.edge with | .falling => 1 | .rising => 2)) * 65536 - s.counter.toNat

/-- A capture event with the counter at 0 uses up a counter period, or ends the conversion. -/
theorem captureHandler_cyclesLeft (pw : Word) {s : State} (zero : s.counter = 0#16) :
    (captureHandler pw s).run = false ∨
    (captureHandler pw s).run = s.run ∧ (captureHandler pw s).ovfEn = s.ovfEn ∧ (captureHandler pw s).capEn = s.capEn ∧
      cyclesLeft (captureHandler pw s) + 65536 ≤ cyclesLeft s := by
  have period : s.counter.toNat = 0 := by rw [zero]; rfl
  rcases captureHandler_cases pw s with ⟨rising, h⟩ | ⟨falling, ack, h⟩ | ⟨falling, pos, -, h⟩ | ⟨-, -, h⟩ <;> rw [h]
  · refine .inr ⟨rfl, rfl, rfl, ?_⟩
    simp only [cyclesLeft, rising, period]
    omega
  · have steps := bitcnt_sub_one_toNat (n := s.bitcnt) (by omega)
    refine .inr ⟨rfl, rfl, rfl, ?_⟩
    simp only [cyclesLeft, falling, period, steps]
    omega
  · have steps := bitcnt_sub_one_toNat pos
    refine .inr ⟨rfl, rfl, rfl, ?_⟩
    simp only [cyclesLeft, falling, period, steps]
    omega
  · exact .inl rfl

/-- What the counter shows is less than the cycles of the periods still to come. -/
theorem cyclesLeft_eq (s : State) (v : Word) (l : Bool) :
    cyclesLeft { s with counter := v, linePrev := l } + v.toNat = cyclesLeft s + s.counter.toNat := by
  have bound := s.counter.isLt
  have bound' := v.isLt
  unfold cyclesLeft
  cases s.edge <;> dsimp only <;> omega

/-- R253: a TICK of a listening block ends the conversion, or leaves it fewer cycles. -/
theorem exec_tick_cyclesLeft {l : Bool} {s t : State} (run : s.run = true) (ovfEn : s.ovfEn = true) (capEn : s.capEn = true)
    (h : exec (.tick l) s = .next t) :
    t.run = false ∨ t.run = true ∧ t.ovfEn = true ∧ t.capEn = true ∧ cyclesLeft t < cyclesLeft s := by
  have bound := s.counter.isLt
  rcases exec_tick_cases h with ⟨stopped, -⟩ | ⟨-, -, -, rfl⟩ | ⟨-, unarmed, -⟩ | ⟨-, -, -, -, -, rfl⟩ | ⟨-, masked, -⟩ |
    ⟨-, below, -, rfl⟩
  · simp [run] at stopped
  · have cleared : _ + 0 = _ := cyclesLeft_eq s 0#16 l
    rcases captureHandler_cyclesLeft s.counter (s := { s with counter := 0#16, linePrev := l }) rfl with
      ended | ⟨run', ovfEn', capEn', fewer⟩
    · exact .inl ended
    · exact .inr ⟨run'.trans run, ovfEn'.trans ovfEn, capEn'.trans capEn, by omega⟩
  · simp [capEn] at unarmed
  · exact .inl rfl
  · simp [ovfEn] at masked
  · have counted := cyclesLeft_eq s (s.counter + 1#16) l
    rw [counter_add_one_toNat below] at counted
    exact .inr ⟨run, ovfEn, capEn, by omega⟩

/-- R253, and so does a whole cycle under a passive host. -/
theorem Listens.step {s t : State} (listens : Listens s) (h : step s = .next t) :
    t.run = false ∨ Listens t ∧ cyclesLeft t < cyclesLeft s := by
  have host := hostPassive_step listens.host h
  obtain ⟨u, hu, ht⟩ := step_passive listens.host h
  rw [ht] at host ⊢
  rcases exec_tick_cyclesLeft (s := s.clearResponse) listens.run listens.ovfEn listens.capEn hu with
    ended | ⟨run, ovfEn, capEn, fewer⟩
  · exact .inl ended
  · exact .inr ⟨⟨run, ovfEn, capEn, host⟩, fewer⟩

/-- R253: a listening block is done within the cycles it may still take. -/
theorem Listens.ends {s : State} (listens : Listens s) :
    ∃ n u, n ≤ cyclesLeft s ∧ cycles n s = .next u ∧ u.run = false := by
  induction bound : cyclesLeft s using Nat.strong_induction_on generalizing s with
  | _ k ih =>
    subst bound
    obtain ⟨t, ht⟩ := step_completes s
    rcases listens.step ht with ended | ⟨still, fewer⟩
    · have pos : 1 ≤ cyclesLeft s := by
        have bound := s.counter.isLt
        unfold cyclesLeft
        cases s.edge <;> dsimp only <;> omega
      exact ⟨1, t, pos, cycles_succ_eq_next.mpr ⟨t, ht, rfl⟩, ended⟩
    · obtain ⟨n, u, le, hu, ended⟩ := ih _ fewer still rfl
      exact ⟨n + 1, u, by omega, cycles_succ_eq_next.mpr ⟨t, ht, hu⟩, ended⟩

end Sys2Proof.Machine

open Sys2Proof Sys2Proof.Machine

/-- Settles O46: the pulse goes on for all but the last of its cycles, and the last one is OVF_START_END. -/
theorem requestPulseLastsStartTicksCycles : Obligations.RequestPulseLastsStartTicksCycles := by
  intro s t bounds h host
  have pulse := inPulse_of_trigger bounds h host
  have cfg : t.cfg = s.cfg := by cases h; rfl
  rw [← cfg] at bounds ⊢
  refine ⟨fun n lt => ?during, ?ended⟩
  case during =>
    obtain ⟨u, hu, during, ucfg⟩ := inPulse_cycles pulse n lt
    have counter := during.counter
    rw [ucfg] at counter
    have bound := (config_wf_iff.mp bounds).2
    exact ⟨u, hu, during.drive, during.phase, during.run, during.capEn, by omega, during.bitcnt, during.buf,
      exec_getResult_resp (resultCode_eq_ongoing during.run)⟩
  case ended =>
    obtain ⟨u, hu, ended⟩ := pulseOver_cycles bounds pulse
    exact ⟨u, hu, ended.drive, ended.phase, ended.run, ended.ovfEn, ended.capEn, ended.edge, ended.counter, ended.bitcnt, ended.buf⟩

/-- Settles O47: `n` silent cycles are counted, and the edge after them is captured with the counter. -/
theorem pulseWidthCountsTheCyclesBetween : Obligations.PulseWidthCountsTheCyclesBetween := by
  intro s n run capEn drive counter host lt listed quiet
  obtain ⟨u, hu, silent⟩ := silent_cycles run capEn drive counter host listed quiet n le_rfl (by omega)
  have width : u.counter = BitVec.ofNat 16 n := by rw [← silent.counter, BitVec.ofNat_toNat, BitVec.setWidth_eq]
  refine ⟨u, hu, silent.run, silent.edge, silent.bitcnt, silent.buf, silent.counter, fun sel => ?_⟩
  rw [← width]
  exact execTick_capture u.lineIn u silent.run silent.capEn sel

/-- Settles O48: the cycles below `CMAX` are counted, and the last one of the window is OVF_TIMEOUT. -/
theorem silenceWindowIsOneCounterPeriod : Obligations.SilenceWindowIsOneCounterPeriod := by
  intro s run ovfEn capEn drive counter host listed quiet
  obtain ⟨u, hu, silent⟩ := silent_cycles run capEn drive counter host listed quiet 65535 (by omega) le_rfl
  have top : u.counter = cmax := counter_eq_sentinel_iff.mpr silent.counter
  obtain ⟨t, ht⟩ := step_completes u
  obtain ⟨noEdge, -⟩ := silent.present (by omega)
  obtain ⟨v, hv, tv⟩ := step_passive silent.host ht
  refine ⟨⟨u, hu, silent.run, top, silent.phase⟩, t, cycles_succ_of hu ht, ?_⟩
  rcases exec_tick_silent (s := u.clearResponse) silent.run silent.capEn noEdge hv with ⟨below, -⟩ | ⟨-, -, rfl⟩ | ⟨-, masked⟩
  · exact absurd top below
  · rw [tv]
    exact ⟨rfl, rfl, rfl, rfl, rfl, silent.bitcnt, silent.buf, exec_getResult_resp (resultCode_eq_timeout rfl rfl)⟩
  · exact absurd (silent.ovfEn.trans ovfEn) (by simpa using masked)

/-- Settles O49: `START_TICKS` cycles of request pulse, and then the 83 counter periods that a block which has just begun to
listen may take. -/
theorem everyConversionEndsInBoundedTime : Obligations.EveryConversionEndsInBoundedTime := by
  intro s t bounds h host
  have cfg : t.cfg = s.cfg := by cases h; rfl
  obtain ⟨u, hu, ended⟩ := pulseOver_cycles (cfg ▸ bounds) (inPulse_of_trigger bounds h host)
  have listens : Listens u := ⟨ended.run, ended.ovfEn, ended.capEn, ended.host⟩
  have left : cyclesLeft u = 83 * 2 ^ 16 := by
    rw [cyclesLeft, ended.bitcnt, ended.edge, ended.counter]
    rfl
  obtain ⟨n, v, le, hv, stopped⟩ := listens.ends
  refine ⟨s.cfg.startTicks + n, v, by omega, ?_, stopped⟩
  rw [cycles_add, ← cfg, hu, andThen_next, hv]
end

section
/-! Frames on the wire: what the event-level statements of a frame do, the buffer after `n` payload bits, and the reading that
comes back (spec 20_memory R54, R55, 43_capture_decoder R150, 44_result_decoder R169). -/

namespace Sys2Proof.Machine

open Sys2Proof

/-! ### Scripts -/

namespace Script

/-- A script, one statement after another. -/
theorem apply_append (es fs : List EventStmt) (s : State) : apply (es ++ fs) s = (apply es s).bind (apply fs) := by
  induction es generalizing s with
  | nil => rfl
  | cons e es ih => simp only [List.cons_append, apply, Option.bind_assoc, ih]

/-- A script whose first statement leads to `t` goes on from `t`. -/
theorem apply_cons {e : EventStmt} {es : List EventStmt} {s t : State} (h : e.apply s = some t) :
    apply (e :: es) s = apply es t := by
  rw [apply, h, Option.bind_some]

/-- FALL where the falling edge is selected and the capture unit armed: the handler of R145 on the cleared counter. -/
theorem fall_apply (pw : Word) {s : State} (armed : s.capEn = true) (falling : s.edge = .falling) :
    (EventStmt.fall pw).apply s = some (captureHandler pw { s with counter := 0#16 }) := by
  rw [EventStmt.apply, if_pos falling, applyCapture_of_armed pw armed, nextOf_next]

/-- RISE where the rising edge is selected and the capture unit armed: only the edge and the counter change (R141). -/
theorem rise_apply (pw : Word) {s : State} (armed : s.capEn = true) (rising : s.edge = .rising) :
    (EventStmt.rise pw).apply s = some { s with counter := 0#16, edge := .falling } := by
  rw [EventStmt.apply, if_pos rising, applyCapture_of_armed pw armed, nextOf_next]
  simp only [captureHandler, rising]

end Script

/-! ### The bits received so far -/

/-- Bit `k` of the cell of byte `j` when the bits `bs` have been received: the first one highest, zeros above them (R55). -/
def receivedBit (bs : List Bool) (j k : Nat) : Bool :=
  decide (k < min 8 (bs.length - 8 * j)) && bs.getD (8 * j + (min 8 (bs.length - 8 * j) - 1 - k)) false

/-- The cells hold the bits `bs` (R55). -/
def HoldsBits (bs : List Bool) (m : Memory) : Prop :=
  ∀ j k, j < 5 → k < 8 → (m.read (4 - j)).getLsbD k = receivedBit bs j k

/-- Before the first bit every cell is 0. -/
theorem holdsBits_nil : HoldsBits [] Memory.zeroed := by
  intro j k _ _
  simp [receivedBit]

/-- A byte that is complete, and one that is not begun, take no further bit. -/
theorem receivedBit_other (bs : List Bool) (b : Bool) {j k : Nat} (other : j ≠ bs.length / 8) (bit : k < 8) :
    receivedBit (bs ++ [b]) j k = receivedBit bs j k := by
  unfold receivedBit
  rw [List.length_append, List.length_singleton]
  by_cases complete : j < bs.length / 8
  · have full : min 8 (bs.length + 1 - 8 * j) = 8 ∧ min 8 (bs.length - 8 * j) = 8 := by omega
    rw [full.1, full.2, List.getD_append _ _ _ _ (by omega)]
  · have empty : min 8 (bs.length + 1 - 8 * j) = 0 ∧ min 8 (bs.length - 8 * j) = 0 := by omega
    simp [empty.1, empty.2]

/-- The byte that is being received moves up one place and takes the bit lowest (R147). -/
theorem receivedBit_current (bs : List Bool) (b : Bool) {k : Nat} (bit : k < 8) :
    receivedBit (bs ++ [b]) (bs.length / 8) k =
      if k = 0 then b else receivedBit bs (bs.length / 8) (k - 1) := by
  unfold receivedBit
  rw [List.length_append, List.length_singleton]
  have size : min 8 (bs.length + 1 - 8 * (bs.length / 8)) = bs.length % 8 + 1 ∧
      min 8 (bs.length - 8 * (bs.length / 8)) = bs.length % 8 := by omega
  rw [size.1, size.2]
  by_cases lowest : k = 0
  · subst lowest
    rw [if_pos rfl, show 8 * (bs.length / 8) + (bs.length % 8 + 1 - 1 - 0) = bs.length by omega]
    simp
  · rw [if_neg lowest]
    by_cases received : k < bs.length % 8 + 1
    · rw [List.getD_append _ _ _ _ (by omega), decide_eq_true received, decide_eq_true (show k - 1 < bs.length % 8 by omega)]
      congr 3
      omega
    · rw [decide_eq_false received, decide_eq_false (show ¬ k - 1 < bs.length % 8 by omega), Bool.false_and, Bool.false_and]

/-- A stored bit is one bit more (R143, R144). -/
theorem holdsBits_write {bs : List Bool} {m : Memory} (wf : m.wf = true) (holds : HoldsBits bs m) (b : Bool)
    (short : bs.length < 40) {i : Nat} (index : i = (39 - bs.length) / 8) :
    HoldsBits (bs ++ [b]) (m.write i (shiftIn (m.read i) b)) := by
  intro j k byte bit
  have current : i = 4 - bs.length / 8 := by omega
  rw [Memory.read_write m i _ _ wf]
  by_cases here : j = bs.length / 8
  · subst here
    rw [if_pos current.symm, shiftIn_getLsbD, receivedBit_current bs b bit, decide_eq_true bit, Bool.true_and, current]
    split_ifs
    · rfl
    · exact holds _ _ byte (by omega)
  · rw [if_neg (by omega), holds j k byte bit, receivedBit_other bs b here bit]

/-! ### The payload of a frame -/

/-- The block after the acknowledgment and the payload bits `bs`, with the parameters `c` (R55). -/
structure Received (c : Config) (bs : List Bool) (s : State) : Prop where
  cfg : s.cfg = c
  wf : s.buf.wf = true
  holds : HoldsBits bs s.buf
  rising : s.edge = .rising
  counter : s.counter = 0#16
  underway : bs.length < 40 → s.capEn = true ∧ s.phase = .listening ∧ s.bitcnt.toNat = 39 - bs.length
  complete : bs.length = 40 → s.run = false ∧ s.phase = .done ∧ s.bitcnt.toNat = 0

/-- A low and a high period are one bit more, the classified high period. -/
theorem Received.pulse {c : Config} {bs : List Bool} {s : State} (received : Received c bs s) (short : bs.length < 40)
    (low high : Word) : ∃ t, Script.apply [.rise low, .fall high] s = some t ∧
      Received c (bs ++ [classify c high]) t := by
  obtain ⟨armed, listening, bitcnt⟩ := received.underway short
  refine ⟨captureHandler high { s with counter := 0#16, edge := .falling }, ?_, ?_⟩
  · exact (Script.apply_cons (Script.rise_apply low armed received.rising)).trans
      (Script.apply_cons (Script.fall_apply high armed rfl))
  · rcases captureHandler_cases high { s with counter := 0#16, edge := .falling } with ⟨rising, -⟩ | ⟨-, ack, -⟩ |
      ⟨-, pos, stored, h⟩ | ⟨-, last, h⟩
    · cases rising
    · simp only [bitcnt] at ack
      omega
    · have index : byteIndex s.bitcnt = (39 - bs.length) / 8 := by rw [byteIndex, bitcnt]
      have steps : (s.bitcnt - 1#6).toNat = 39 - (bs.length + 1) := by rw [bitcnt_sub_one_toNat pos, bitcnt]; omega
      rw [h, ← received.cfg]
      refine ⟨rfl, Memory.wf_write s.buf _ _ received.wf (byteIndex_lt stored),
        holdsBits_write received.wf received.holds _ short index, rfl, rfl, fun _ => ⟨armed, listening, ?_⟩, fun full => ?_⟩
      · rw [List.length_append, List.length_singleton]
        exact steps
      · rw [List.length_append, List.length_singleton] at full
        simp only [bitcnt] at pos
        omega
    · have index : 0 = (39 - bs.length) / 8 := by simp only [bitcnt] at last; omega
      rw [h, ← received.cfg]
      refine ⟨rfl, Memory.wf_write s.buf 0 _ received.wf (by decide),
        holdsBits_write received.wf received.holds _ short index, rfl, rfl, fun notFull => ?_, fun _ => ⟨rfl, rfl, last⟩⟩
      rw [List.length_append, List.length_singleton] at notFull
      simp only [bitcnt] at last
      omega

/-- The bits that the high periods of `ps` classify as (R148). -/
def classifiedBits (c : Config) (ps : List (Word × Word)) : List Bool := ps.map fun p => classify c p.2

/-- Any number of periods are as many bits more. -/
theorem Received.pulses {c : Config} {bs : List Bool} {s : State} (received : Received c bs s) (ps : List (Word × Word))
    (short : bs.length + ps.length ≤ 40) : ∃ t, Script.apply (Script.pulseEvents ps) s = some t ∧
      Received c (bs ++ classifiedBits c ps) t := by
  induction ps generalizing bs s with
  | nil => exact ⟨s, rfl, by rw [classifiedBits, List.map_nil, List.append_nil]; exact received⟩
  | cons p ps ih =>
    rw [List.length_cons] at short
    obtain ⟨t, ht, received'⟩ := received.pulse (by omega) p.1 p.2
    obtain ⟨u, hu, received''⟩ := ih received' (by rw [List.length_append, List.length_singleton]; omega)
    refine ⟨u, ?_, ?_⟩
    · have split : Script.pulseEvents (p :: ps) = [.rise p.1, .fall p.2] ++ Script.pulseEvents ps := rfl
      rw [split, Script.apply_append, ht, Option.bind_some, hu]
    · rw [List.append_assoc] at received''
      exact received''

/-- R142: a falling edge within the acknowledgment steps `BITCNT` and stores no bit. -/
theorem captureHandler_ack (pw : Word) {s : State} (falling : s.edge = .falling) (ack : 40 ≤ s.bitcnt.toNat) :
    captureHandler pw s = { s with bitcnt := s.bitcnt - 1#6, edge := .rising } := by
  rcases captureHandler_cases pw s with ⟨rising, -⟩ | ⟨-, -, h⟩ | ⟨-, -, lt, -⟩ | ⟨-, last, -⟩
  · simp [falling] at rising
  · exact h
  · omega
  · omega

/-- A FALL within the acknowledgment steps `BITCNT` and clears the counter. -/
theorem Script.fall_apply_ack (pw : Word) {s : State} {n : BitCount} (armed : s.capEn = true) (falling : s.edge = .falling)
    (ack : 40 ≤ s.bitcnt.toNat) (steps : s.bitcnt - 1#6 = n) :
    (Script.EventStmt.fall pw).apply s = some { s with counter := 0#16, bitcnt := n, edge := .rising } := by
  rw [Script.fall_apply pw armed falling, captureHandler_ack (s := { s with counter := 0#16 }) pw falling ack, ← steps]

/-- The acknowledgment events of a listening block (R89): `BITCNT` goes from 41 to 39, and no bit is stored. -/
theorem Script.ack_apply (a b c : Word) {s : State} (armed : s.capEn = true) (falling : s.edge = .falling)
    (start : s.bitcnt = 41#6) :
    Script.apply [.fall a, .rise b, .fall c] s = some { s with counter := 0#16, bitcnt := 39#6, edge := .rising } := by
  have first := Script.fall_apply_ack a (n := 40#6) armed falling (by rw [start]; decide) (by rw [start]; decide)
  have second := Script.rise_apply b (s := { s with counter := 0#16, bitcnt := 40#6, edge := .rising }) armed rfl
  have third := Script.fall_apply_ack c (s := { s with counter := 0#16, bitcnt := 40#6, edge := .falling }) (n := 39#6) armed rfl
    (show 40 ≤ (40#6).toNat by decide) (show 40#6 - 1#6 = 39#6 by decide)
  exact (Script.apply_cons first).trans ((Script.apply_cons second).trans (Script.apply_cons third))

/-- OVF before the capture unit is armed: the end of the request pulse (R131). -/
theorem Script.ovf_apply {s : State} (unarmed : s.capEn = false) : Script.EventStmt.ovf.apply s = some { s with
    drive := false, counter := 0#16, edge := .falling, capEn := true, phase := .listening } :=
  congrArg nextOf (applyOverflow_of_unarmed unarmed)

/-- The end of the request pulse and the acknowledgment events, after which no bit has been received (R89, R142). -/
theorem received_nil {s t : State} (a b c : Word) (h : exec .triggerRead s = .next t) :
    ∃ u, Script.apply [.ovf, .fall a, .rise b, .fall c] t = some u ∧ Received s.cfg [] u := by
  have triggered := (Host.Outcome.next.inj ((exec_triggerRead s).symm.trans h)).symm
  have unarmed : t.capEn = false := by rw [triggered]
  have start : t.bitcnt = 41#6 := by rw [triggered]
  have cleared : t.buf = Memory.zeroed := by rw [triggered]
  have cfg : t.cfg = s.cfg := by rw [triggered]
  refine ⟨_, (Script.apply_cons (Script.ovf_apply unarmed)).trans (Script.ack_apply a b c rfl rfl start), ?_⟩
  refine ⟨cfg, ?wf, ?holds, rfl, rfl, fun _ => ⟨rfl, rfl, rfl⟩, nofun⟩
  case wf => exact cleared ▸ Memory.wf_ofBytes _
  case holds => exact cleared ▸ holdsBits_nil

/-- R55: the state after TRIGGER_READ, the acknowledgment and any payload bits. -/
theorem received_frame {s t : State} (a b c : Word) (ps : List (Word × Word)) (h : exec .triggerRead s = .next t)
    (short : ps.length ≤ 40) :
    ∃ u, Script.apply (.ovf :: .fall a :: .rise b :: .fall c :: Script.pulseEvents ps) t = some u ∧
      Received s.cfg (classifiedBits s.cfg ps) u := by
  obtain ⟨v, hv, nothing⟩ := received_nil a b c h
  obtain ⟨u, hu, received⟩ := nothing.pulses ps (by simpa using short)
  refine ⟨u, ?_, received⟩
  have split : (.ovf :: .fall a :: .rise b :: .fall c :: Script.pulseEvents ps : List Script.EventStmt) =
    [.ovf, .fall a, .rise b, .fall c] ++ Script.pulseEvents ps := rfl
  rw [split, Script.apply_append, hv, Option.bind_some, hu]

/-- A received bit is the classified high period it came from. -/
theorem receivedBit_classifiedBits (c : Config) (ps : List (Word × Word)) (j k : Nat) :
    receivedBit (classifiedBits c ps) j k = (decide (k < min 8 (ps.length - 8 * j)) &&
      classify c (ps.getD (8 * j + (min 8 (ps.length - 8 * j) - 1 - k)) (0#16, 0#16)).2) := by
  unfold receivedBit classifiedBits
  rw [List.length_map]
  by_cases received : k < min 8 (ps.length - 8 * j)
  · have index : 8 * j + (min 8 (ps.length - 8 * j) - 1 - k) < ps.length := by omega
    rw [List.getD_eq_getElem _ _ (by simpa using index), List.getD_eq_getElem _ _ index, List.getElem_map]
  · rw [decide_eq_false received, Bool.false_and, Bool.false_and]

/-! ### The complete payload -/

/-- With forty bits received, bit `k` of cell `i` is bit `8i + k` of the payload (R54). -/
theorem read_of_complete {c : Config} {ps : List (Word × Word)} {P : Payload} {m : Memory}
    (holds : HoldsBits (classifiedBits c ps) m) (length : ps.length = 40)
    (bits : ∀ k, k < 40 → classify c (ps.getD k (0#16, 0#16)).2 = P.getLsbD (39 - k)) {i : Nat} (cell : i < 5) :
    m.read i = P.extractLsb' (8 * i) 8 := by
  apply BitVec.eq_of_getLsbD_eq
  intro k bit
  have byte : 4 - (4 - i) = i := by omega
  have size : min 8 (ps.length - 8 * (4 - i)) = 8 := by omega
  have read := holds (4 - i) k (by omega) bit
  rw [byte, receivedBit_classifiedBits, size, decide_eq_true bit, Bool.true_and, bits _ (by omega)] at read
  rw [read, BitVec.getLsbD_extractLsb', decide_eq_true bit, Bool.true_and]
  congr 1
  omega

/-- R54, R150: a complete frame ends in `Done` with the bytes of its payload in the cells. -/
theorem complete_frame {s t : State} (a b c : Word) {ps : List (Word × Word)} {P : Payload} (h : exec .triggerRead s = .next t)
    (length : ps.length = 40)
    (bits : ∀ k, k < 40 → classify s.cfg (ps.getD k (0#16, 0#16)).2 = P.getLsbD (39 - k)) :
    ∃ u, Script.apply (.ovf :: .fall a :: .rise b :: .fall c :: Script.pulseEvents ps) t = some u ∧
      u.phase = .done ∧ u.run = false ∧ u.counter = 0#16 ∧ u.bitcnt = 0#6 ∧
      ∀ i, i < 5 → u.buf.read i = P.extractLsb' (8 * i) 8 := by
  obtain ⟨u, hu, received⟩ := received_frame a b c ps h length.le
  obtain ⟨run, phase, bitcnt⟩ := received.complete ((List.length_map _).trans length)
  exact ⟨u, hu, phase, run, received.counter, BitVec.eq_of_toNat_eq bitcnt,
    fun i => read_of_complete received.holds length bits⟩

/-- Two payload words with the same five bytes are one (R79). -/
theorem payload_ext {P Q : Payload} (bytes : ∀ i, i < 5 → P.extractLsb' (8 * i) 8 = Q.extractLsb' (8 * i) 8) : P = Q := by
  apply BitVec.eq_of_getLsbD_eq
  intro n lt
  have bit := congrArg (fun b : Byte => b.getLsbD (n % 8)) (bytes (n / 8) (by omega))
  have place : 8 * (n / 8) + n % 8 = n := by omega
  simpa [BitVec.getLsbD_extractLsb', place, Nat.mod_lt] using bit

/-- The payload word of a buffer is the word whose bytes are its cells (R79). -/
theorem payloadWord_eq {m : Memory} {P : Payload} (cells : ∀ i, i < 5 → m.read i = P.extractLsb' (8 * i) 8) :
    payloadWord m = P :=
  payload_ext fun i cell => (payloadWord_byte m cell).trans (cells i cell)

end Sys2Proof.Machine

open Sys2Proof Sys2Proof.Machine

/-- Settles O50: the cells after `n` bits are `receivedBit`'s, by induction on the payload. -/
theorem partlyFilledBufferHoldsTheBitsSoFar : Obligations.PartlyFilledBufferHoldsTheBitsSoFar := by
  intro s t a b c ps h short
  obtain ⟨u, hu, received⟩ := received_frame a b c ps h short
  have length : (classifiedBits s.cfg ps).length = ps.length := List.length_map _
  refine ⟨u, hu, fun lt => ?_, fun full => ?_, fun j k byte bit => ?_⟩
  · obtain ⟨-, phase, bitcnt⟩ := received.underway (by omega)
    exact ⟨phase, by rw [bitcnt, length]⟩
  · obtain ⟨-, phase, bitcnt⟩ := received.complete (by omega)
    exact ⟨phase, bitcnt⟩
  · rw [received.holds j k byte bit, receivedBit_classifiedBits]

/-- Settles O51: the forty bits fill the cells with the bytes of the payload, from which GET_RAW_DATA answers. -/
theorem completeFrameLeavesThePayloadInTheBuffer : Obligations.CompleteFrameLeavesThePayloadInTheBuffer := by
  intro s t a b c ps P h length bits
  obtain ⟨u, hu, phase, run, counter, bitcnt, cells⟩ := complete_frame a b c h length bits
  exact ⟨u, hu, phase, run, counter, cells, _, exec_getRawData u, by rw [payloadWord_eq cells, bitcnt]⟩
end

section
/-! The round trip of a reading: the frame at event level as forty periods, and the fields of the reading from its bytes (spec
44_result_decoder R165, R169). -/

namespace Sys2Proof.Machine

open Sys2Proof

/-! ### The frame of a payload -/

/-- The nominal periods of the payload bits, most significant bit first (R89). -/
def nominalPeriods (P : Payload) : List (Word × Word) :=
  (List.range 40).map fun k => (799#16, if P.getLsbD (39 - k) = true then 1119#16 else 447#16)

/-- The frame of a payload's bytes is the acknowledgment and its forty periods (R89). -/
theorem frameEvents_eq (P : Payload) :
    Script.frameEvents (P.extractLsb' 32 8) (P.extractLsb' 24 8) (P.extractLsb' 16 8) (P.extractLsb' 8 8)
      (P.extractLsb' 0 8) = Script.ackEvents ++ Script.pulseEvents (nominalPeriods P) := by
  simp [Script.frameEvents, Script.byteEvents, Script.bitEvents, nominalPeriods, List.range_succ, Script.pulseEvents]

/-- Every threshold between the two nominal high periods tells them apart (R148). -/
theorem classify_nominal {c : Config} (low : 447 ≤ c.threshold.toNat) (high : c.threshold.toNat < 1119) (b : Bool) :
    classify c (if b = true then 1119#16 else 447#16) = b := by
  cases b with
  | false => exact classify_eq_false_iff.mpr low
  | true => exact (classify_iff c 1119#16).mpr high

/-- The nominal periods classify as the bits of the payload. -/
theorem classify_nominalPeriods {c : Config} (P : Payload) (low : 447 ≤ c.threshold.toNat) (high : c.threshold.toNat < 1119)
    {k : Nat} (bit : k < 40) : classify c ((nominalPeriods P).getD k (0#16, 0#16)).2 = P.getLsbD (39 - k) := by
  have index : k < (nominalPeriods P).length := by simpa [nominalPeriods] using bit
  rw [List.getD_eq_getElem _ _ index]
  simp only [nominalPeriods, List.getElem_map, List.getElem_range]
  exact classify_nominal low high _

/-! ### The fields of a reading -/

/-- A field is joined from its two bytes (R83). -/
theorem joinBytes_extract (x : Half) : joinBytes (x.extractLsb' 8 8) (x.extractLsb' 0 8) = x := by
  apply BitVec.eq_of_toNat_eq
  have bound := x.isLt
  rw [joinBytes_toNat, BitVec.extractLsb'_toNat, BitVec.extractLsb'_toNat, Nat.shiftRight_eq_div_pow]
  simp only [Nat.shiftRight_zero]
  omega

/-- The temperature field of a negative temperature, as a number. -/
theorem encodeTemperature_toNat_of_neg {t : Half} (negative : 32768 < t.toNat) :
    (Script.encodeTemperature t).toNat = 32768 + (65536 - t.toNat) := by
  have bound := t.isLt
  have neg : (-t).toNat = 65536 - t.toNat := by
    rw [BitVec.toNat_neg]
    omega
  have sign : t.getLsbD 15 = true := by
    rw [half_getLsbD_fifteen]
    exact decide_eq_true (by omega)
  rw [Script.encodeTemperature, if_pos sign, BitVec.toNat_or, neg]
  exact (Nat.two_pow_add_eq_or_of_lt (i := 15) (by omega) 1).symm

/-- R165, R169: the sign-magnitude field of every temperature but the smallest has it as its value. -/
theorem signMagnitude_encodeTemperature {t : Half} (notMin : t ≠ 0x8000#16) :
    signMagnitude (Script.encodeTemperature t) = t := by
  have notMin' : t.toNat ≠ 32768 := fun h => notMin (BitVec.eq_of_toNat_eq h)
  have bound := t.isLt
  apply BitVec.eq_of_toInt_eq
  rw [signMagnitude_toInt]
  by_cases positive : t.toNat < 32768
  · have same : Script.encodeTemperature t = t := by
      rw [Script.encodeTemperature, half_getLsbD_fifteen, decide_eq_false (by omega)]
      rfl
    rw [same, if_pos positive, BitVec.toInt_eq_toNat_of_lt (by omega)]
  · have value := encodeTemperature_toNat_of_neg (t := t) (by omega)
    rw [value, if_neg (by omega), BitVec.toInt_eq_toNat_cond, if_neg (by omega)]
    omega

/-- The payload of a reading: the two fields and their checksum (R169). -/
def readingPayload (h t : Half) : Payload :=
  let m := Script.encodeTemperature t
  let b1 : Byte := h.extractLsb' 8 8
  let b2 : Byte := h.extractLsb' 0 8
  let b3 : Byte := m.extractLsb' 8 8
  let b4 : Byte := m.extractLsb' 0 8
  joinCells b1 b2 b3 b4 (b1 + b2 + b3 + b4)

/-- The bytes of a reading's payload, from the last one on. -/
theorem readingPayload_bytes (h t : Half) :
    (readingPayload h t).extractLsb' 32 8 = h.extractLsb' 8 8 ∧ (readingPayload h t).extractLsb' 24 8 = h.extractLsb' 0 8 ∧
    (readingPayload h t).extractLsb' 16 8 = (Script.encodeTemperature t).extractLsb' 8 8 ∧
    (readingPayload h t).extractLsb' 8 8 = (Script.encodeTemperature t).extractLsb' 0 8 ∧
    (readingPayload h t).extractLsb' 0 8 = h.extractLsb' 8 8 + h.extractLsb' 0 8 +
      (Script.encodeTemperature t).extractLsb' 8 8 + (Script.encodeTemperature t).extractLsb' 0 8 :=
  joinCells_extract _ _ _ _ _

/-- The frame of a reading is the frame of its payload (R169). -/
theorem readingFrame_eq (h t : Half) :
    Script.readingFrame h t = Script.ackEvents ++ Script.pulseEvents (nominalPeriods (readingPayload h t)) := by
  obtain ⟨b1, b2, b3, b4, b5⟩ := readingPayload_bytes h t
  rw [← frameEvents_eq, b1, b2, b3, b4, b5]
  rfl

/-- A buffer with the bytes of a reading's payload passes the checksum and holds the fields of the reading (R163 to R165). -/
theorem fields_of_readingPayload {h t : Half} {m : Memory}
    (cells : ∀ i, i < 5 → m.read i = (readingPayload h t).extractLsb' (8 * i) 8) :
    checksum m = m.read 0 ∧ rhField m = h ∧ tempField m = Script.encodeTemperature t := by
  obtain ⟨b1, b2, b3, b4, b5⟩ := readingPayload_bytes h t
  have c4 := (cells 4 (by decide)).trans b1
  have c3 := (cells 3 (by decide)).trans b2
  have c2 := (cells 2 (by decide)).trans b3
  have c1 := (cells 1 (by decide)).trans b4
  have c0 := (cells 0 (by decide)).trans b5
  refine ⟨by rw [checksum, c4, c3, c2, c1, c0], ?_, ?_⟩
  · rw [rhField, c4, c3, joinBytes_extract]
  · rw [tempField, c2, c1, joinBytes_extract]

end Sys2Proof.Machine

open Sys2Proof Sys2Proof.Machine

/-- Settles O52: the frame leaves the bytes of the reading in the cells, their sum in cell 0, and the two fields give back what
they were made from. -/
theorem everyReadingSurvivesTheRoundTrip : Obligations.EveryReadingSurvivesTheRoundTrip := by
  intro s h t notMin low high
  have length : (nominalPeriods (readingPayload h t)).length = 40 := by simp [nominalPeriods]
  obtain ⟨u, hu, phase, run, counter, bitcnt, cells⟩ := complete_frame 480#16 1279#16 1279#16 (exec_triggerRead s) length
    fun k => classify_nominalPeriods (readingPayload h t) low high
  obtain ⟨sums, rh, temp⟩ := fields_of_readingPayload cells
  have code : resultCode u = .ok := resultCode_eq_ok_iff.mpr ⟨run, by rw [counter]; decide, sums⟩
  have trigger : (Script.EventStmt.command 0b010#3).apply s = _ := congrArg nextOf (exec_triggerRead s)
  have result : (Script.EventStmt.command 0b011#3).apply u = _ := congrArg nextOf (exec_getResult_of_ok code)
  have script : Script.EventStmt.ovf :: (Script.readingFrame h t ++ [.command 0b011#3]) =
      (.ovf :: .fall 480#16 :: .rise 1279#16 :: .fall 1279#16 ::
        Script.pulseEvents (nominalPeriods (readingPayload h t))) ++ [.command 0b011#3] := by
    rw [readingFrame_eq]
    rfl
  refine ⟨{ u with
    tempOut := signMagnitude (tempField u.buf), rhOut := rhField u.buf, resp := some (.result .ok) },
    ?run, rfl, rh, ?temp, phase, bitcnt⟩
  case run => rw [script, Script.apply_cons trigger, Script.apply_append, hu, Option.bind_some, Script.apply_cons result]; rfl
  case temp => exact (congrArg signMagnitude temp).trans (signMagnitude_encodeTemperature notMin)
end

section
/-! The sensor on the bench: it begins in the cycle after OVF_START_END and nowhere else (spec 30_encoding R86, R87). -/

namespace Sys2Proof.Machine

open Sys2Proof

/-! ### A cycle reads one input -/

/-- Two states that differ only in the inputs after the present one differ in nothing else after a cycle. -/
theorem step_of_inputs {s t : State} {x : CycleInput} {rest : List CycleInput} (more : List CycleInput)
    (h : step { s with inputs := x :: rest } = .next t) :
    step { s with inputs := x :: more } = .next { t with inputs := more } := by
  rcases step_cases h with ⟨reset, u, hu, rfl⟩ | ⟨noReset, u, v, hu, hv, rfl⟩
  · cases hu
    exact runCycle_reset { s with inputs := x :: more } reset
  · obtain ⟨q, same, hq⟩ := exec_tick_relabel s.phase (x :: more) hu
    rw [same rfl] at hq
    obtain ⟨q', same', hq'⟩ := exec_decodeCommand_relabel u.phase u.linePrev (x :: more) hv
    obtain ⟨-, -, line⟩ := exec_decodeCommand_frame hv
    rw [same' rfl] at hq'
    refine (step_of_command (s := { s with inputs := x :: more }) noReset hq hq').trans ?_
    rw [← line]
    rfl

namespace Script

/-! ### The bench -/

/-- The input the bench presents: the word, and the sensor's pull on the line (R87). -/
def benchInput (w : BitVec 4) (pull : Bool) : CycleInput := ⟨w.getLsbD 3, w.extractLsb' 0 3, .sensor pull⟩

/-- A cycle of the bench completes, with the sensor one cycle on. -/
theorem benchCycle_completes (p : List Bool) (w : BitVec 4) (b : Bench) : ∃ t,
    step (b.state.present (benchInput w b.sensor.pull)) = .next t ∧
      benchCycle p w b = some ⟨b.sensor.advance p (startPulseEnded (w.getLsbD 3) b.state t), t⟩ := by
  obtain ⟨t, ht⟩ := step_completes (b.state.present (benchInput w b.sensor.pull))
  exact ⟨t, ht, benchCycle_eq_some.mpr ⟨ht, rfl⟩⟩

/-- A run of the bench from its first cycle. -/
theorem benchRun_cons {p : List Bool} {w : BitVec 4} {ws : List (BitVec 4)} {b c : Bench} (h : benchCycle p w b = some c) :
    benchRun p (w :: ws) b = benchRun p ws c := by
  rw [benchRun, h, Option.bind_some]

/-! ### No start pulse, no sensor -/

/-- No start pulse is under way, so none can end: the counter stands still, or the capture unit is already armed. -/
def NoPulse (s : State) : Prop := s.run = false ∨ s.capEn = true

/-- A cycle in which no pulse is under way ends none. -/
theorem startPulseEnded_of_noPulse {rst : Bool} {s t : State} (noPulse : NoPulse s) : startPulseEnded rst s t = false := by
  apply Bool.eq_false_of_not_eq_true
  rw [startPulseEnded_iff]
  rintro ⟨-, run, -, unarmed, -⟩
  rcases noPulse with stopped | armed
  · simp [run] at stopped
  · simp [unarmed] at armed

/-- TICK begins no pulse. -/
theorem noPulse_tick {l : Bool} {s t : State} (noPulse : NoPulse s) (h : exec (.tick l) s = .next t) : NoPulse t := by
  rcases exec_tick_cases h with ⟨stopped, rfl⟩ | ⟨-, armed, -, rfl⟩ | ⟨-, -, -, -, rfl⟩ | ⟨-, -, -, -, -, rfl⟩ |
    ⟨-, -, -, -, rfl⟩ | ⟨-, -, -, rfl⟩
  · exact .inl stopped
  · rcases captureHandler_cases s.counter { s with linePrev := l, counter := 0#16 } with ⟨-, h⟩ | ⟨-, -, h⟩ | ⟨-, -, -, h⟩ |
      ⟨-, -, h⟩ <;> rw [h]
    · exact .inr armed
    · exact .inr armed
    · exact .inr armed
    · exact .inl rfl
  · exact .inr rfl
  · exact .inl rfl
  · exact noPulse
  · exact noPulse

/-- Of the commands only TRIGGER_READ begins a pulse. -/
theorem noPulse_command {c : BitVec 3} {s t : State} (noPulse : NoPulse s) (notTrigger : c ≠ 0b010#3)
    (h : exec (decodeCommand c) s = .next t) : NoPulse t := by
  rcases exec_decodeCommand_cases h with ⟨-, rfl⟩ | ⟨trigger, -⟩ | ⟨-, ht, -⟩ | ⟨-, rfl⟩ | ⟨-, -, -, -, rfl⟩
  · exact .inl rfl
  · exact absurd trigger notTrigger
  · rw [ht]
    exact noPulse
  · exact noPulse
  · exact noPulse

/-- A word without RESET that is not TRIGGER_READ's has another command (R71). -/
theorem command_ne_trigger {w : BitVec 4} (other : w ≠ 0b0010#4) (noReset : w.getLsbD 3 = false) :
    w.extractLsb' 0 3 ≠ 0b010#3 := by
  revert w
  decide

/-- A cycle of the bench without TRIGGER_READ begins no pulse. -/
theorem noPulse_step {s t : State} {w : BitVec 4} {pull : Bool} (noPulse : NoPulse s) (other : w ≠ 0b0010#4)
    (h : step (s.present (benchInput w pull)) = .next t) : NoPulse t := by
  rcases step_cases h with ⟨-, u, hu, rfl⟩ | ⟨noReset, u, v, hu, hv, rfl⟩
  · cases hu
    exact .inl rfl
  · exact noPulse_command (t := v) (noPulse_tick (s := State.clearResponse (s.present (benchInput w pull))) noPulse hu)
      (command_ne_trigger other noReset) hv

/-- With no pulse under way and no TRIGGER_READ the sensor waits on. -/
theorem waiting_of_noPulse (p : List Bool) {s : State} (noPulse : NoPulse s) {ws : List (BitVec 4)}
    (noTrigger : ∀ w ∈ ws, w ≠ 0b0010#4) : ∃ b, benchRun p ws ⟨.waiting, s⟩ = some b ∧ b.sensor = .waiting := by
  induction ws generalizing s with
  | nil => exact ⟨_, rfl, rfl⟩
  | cons w ws ih =>
    obtain ⟨t, ht, hc⟩ := benchCycle_completes p w ⟨.waiting, s⟩
    rw [startPulseEnded_of_noPulse noPulse] at hc
    rw [benchRun_cons hc]
    exact ih (noPulse_step noPulse (noTrigger w (by simp)) ht) fun x hx => noTrigger x (by simp [hx])

/-- So it does after a first cycle that ends no pulse and leaves none under way. -/
theorem waiting_after_cycle (p : List Bool) {s t : State} {w : BitVec 4} {ws : List (BitVec 4)}
    (first : step (s.present (benchInput w false)) = .next t) (notEnded : startPulseEnded (w.getLsbD 3) s t = false)
    (noPulse : NoPulse t) (noTrigger : ∀ w ∈ ws, w ≠ 0b0010#4) :
    ∃ b, benchRun p (w :: ws) ⟨.waiting, s⟩ = some b ∧ b.sensor = .waiting := by
  have hc : benchCycle p w ⟨.waiting, s⟩ = some ⟨.waiting, t⟩ := benchCycle_eq_some.mpr ⟨first, by rw [notEnded]; rfl⟩
  rw [benchRun_cons hc]
  exact waiting_of_noPulse p noPulse noTrigger

/-! ### The bench through the start pulse -/

/-- The bench `n` cycles after the one of TRIGGER_READ, with a pulse of `k` cycles (R87): in the pulse the sensor waits, the
last cycle of the pulse has just ended it, and from then on the sensor has used one cycle of its behaviour `p` in each. -/
structure AfterTrigger (p : List Bool) (m : Memory) (k n : Nat) (b : Bench) : Prop where
  inputs : b.state.inputs = []
  ticks : b.state.cfg.startTicks = k
  during : n < k → b.sensor = .waiting ∧ InPulse m n b.state
  ended : n = k → PulseOver m b.state
  after : k ≤ n → b.sensor = .playing (p.drop (n - k))

/-- A word of a passive host. -/
def PassiveWord (w : BitVec 4) : Prop :=
  w = 0b0000#4 ∨ w = 0b0011#4 ∨ w = 0b0100#4 ∨ w = 0b0101#4 ∨ w = 0b0110#4 ∨ w = 0b0111#4

/-- Its input is passive (R74). -/
theorem passive_of_word {w : BitVec 4} (pull : Bool) (passive : PassiveWord w) :
    (benchInput w pull).passive = true := by
  rcases passive with rfl | rfl | rfl | rfl | rfl | rfl <;> rfl

/-- A presented passive input leaves the pulse where it is. -/
theorem inPulse_present {m : Memory} {n : Nat} {s : State} {x : CycleInput} (pulse : InPulse m n s) (passive : x.passive = true)
    (noInputs : s.inputs = []) : InPulse m n (s.present x) := by
  have host : (s.present x).hostPassive = true := by simp [State.hostPassive, noInputs, passive]
  exact ⟨pulse.drive, pulse.phase, pulse.run, pulse.ovfEn, pulse.capEn, pulse.counter, pulse.bitcnt, pulse.buf, host⟩

/-- A cycle that leaves the line driven does not begin the sensor. -/
theorem startPulseEnded_of_driven {rst : Bool} {s t : State} (driven : t.drive = true) : startPulseEnded rst s t = false := by
  simp [startPulseEnded, driven]

/-- The last cycle of a pulse begins the sensor. -/
theorem startPulseEnded_of_last {m : Memory} {n : Nat} {s t : State} (pulse : InPulse m n s)
    (last : n + 1 = s.cfg.startTicks) (released : PulseOver m t) : startPulseEnded false s t = true := by
  have top : s.counter = cmax := counter_eq_sentinel_iff.mpr (by have := pulse.counter; omega)
  exact (startPulseEnded_iff ..).mpr ⟨rfl, pulse.run, pulse.ovfEn, pulse.capEn, top, released.drive⟩

/-- A cycle of a passive host takes the bench one cycle further. -/
theorem AfterTrigger.cycle {p : List Bool} {m : Memory} {k n : Nat} {b : Bench} (bench : AfterTrigger p m k n b)
    {w : BitVec 4} (passive : PassiveWord w) :
    ∃ c, benchCycle p w b = some c ∧ step (b.state.present (benchInput w b.sensor.pull)) = .next c.state ∧
      AfterTrigger p m k (n + 1) c := by
  obtain ⟨t, ht, hc⟩ := benchCycle_completes p w b
  obtain ⟨cfg, inputs⟩ := step_frame ht
  have noInputs : t.inputs = [] := by rw [inputs, present_inputs, List.tail_cons, bench.inputs, List.tail_nil]
  have ticks : t.cfg.startTicks = k := by rw [cfg, present_cfg, bench.ticks]
  have quiet := passive_of_word b.sensor.pull passive
  have noReset : w.getLsbD 3 = false := (passive_iff.mp quiet).1
  refine ⟨_, hc, ht, ?_⟩
  rcases Nat.lt_or_ge n k with inside | outside
  · obtain ⟨waiting, pulse⟩ := bench.during inside
    have pulse' := inPulse_present pulse quiet bench.inputs
    rcases Nat.lt_or_eq_of_le (Nat.succ_le_of_lt inside) with goesOn | last
    · have next := pulse'.step (bench.ticks.symm ▸ goesOn) ht
      rw [startPulseEnded_of_driven next.drive, waiting]
      exact ⟨noInputs, ticks, fun _ => ⟨rfl, next⟩, by omega, by omega⟩
    · have released := pulse'.last (bench.ticks.symm ▸ last) ht
      rw [noReset, startPulseEnded_of_last pulse (bench.ticks.symm ▸ last) released, waiting]
      exact ⟨noInputs, ticks, by omega, fun _ => released, fun _ => by simp [← last]⟩
  · rw [bench.after outside, advance_playing, List.tail_drop]
    exact ⟨noInputs, ticks, by omega, by omega, fun _ => by rw [Nat.sub_add_comm outside]⟩

/-- The input the sensor's schedule has for a cycle is the one the bench presents in it. -/
theorem AfterTrigger.schedule {p : List Bool} {m : Memory} {k n : Nat} {b : Bench} (bench : AfterTrigger p m k n b)
    (w : BitVec 4) (ws : List (BitVec 4)) : Script.schedule (k - n) (p.drop (n - k)) (w :: ws) =
      benchInput w b.sensor.pull :: Script.schedule (k - (n + 1)) (p.drop (n + 1 - k)) ws := by
  rcases Nat.lt_or_ge n k with inside | outside
  · obtain ⟨waiting, -⟩ := bench.during inside
    obtain ⟨r, hr⟩ : ∃ r, k - n = r + 1 := ⟨k - n - 1, by omega⟩
    have before : n - k = 0 ∧ n + 1 - k = 0 ∧ k - (n + 1) = r := by omega
    rw [waiting, hr, before.1, before.2.1, before.2.2]
    rfl
  · have after : k - n = 0 ∧ k - (n + 1) = 0 := by omega
    rw [bench.after outside, after.1, after.2, Nat.sub_add_comm outside, ← List.tail_drop]
    rfl

/-- A passive run of the bench is the run of the block on the sensor's schedule (R87). -/
theorem AfterTrigger.run {p : List Bool} {m : Memory} {k n : Nat} {b : Bench} (bench : AfterTrigger p m k n b)
    {ws : List (BitVec 4)} (passive : ∀ w ∈ ws, PassiveWord w) :
    ∃ c, benchRun p ws b = some c ∧
      cycles ws.length { b.state with inputs := Script.schedule (k - n) (p.drop (n - k)) ws } = .next c.state ∧
      AfterTrigger p m k (n + ws.length) c := by
  induction ws generalizing n b with
  | nil => exact ⟨b, rfl, by rw [Script.schedule, ← bench.inputs]; rfl, bench⟩
  | cons w ws ih =>
    obtain ⟨c, hc, hstep, bench'⟩ := bench.cycle (passive w (by simp))
    obtain ⟨d, hd, hrun, bench''⟩ := ih bench' fun x hx => passive x (by simp [hx])
    refine ⟨d, (benchRun_cons hc).trans hd, ?_, by rw [List.length_cons, Nat.add_comm ws.length, ← Nat.add_assoc]; exact bench''⟩
    rw [bench.schedule, List.length_cons]
    exact cycles_succ_eq_next.mpr ⟨_, step_of_inputs _ hstep, hrun⟩

/-- The cycle of TRIGGER_READ begins the pulse, and the sensor waits. -/
theorem afterTrigger_of_trigger (p : List Bool) {s : State} (bounds : s.cfg.wf = true) (noInputs : s.inputs = []) :
    ∃ m c, benchCycle p 0b0010#4 ⟨.waiting, s⟩ = some c ∧ step (s.present (benchInput 0b0010#4 false)) = .next c.state ∧
      AfterTrigger p m s.cfg.startTicks 0 c := by
  obtain ⟨t, ht, hc⟩ := benchCycle_completes p 0b0010#4 ⟨.waiting, s⟩
  obtain ⟨cfg, inputs⟩ := step_frame ht
  have tInputs : t.inputs = [] := by rw [inputs, present_inputs, List.tail_cons, noInputs, List.tail_nil]
  have pulse : InPulse t.buf 0 t := by
    rcases step_cases ht with ⟨reset, -⟩ | ⟨-, u, v, hu, hv, rfl⟩
    · cases reset
    · have trigger : exec .triggerRead u = .next v := hv
      obtain ⟨-, -, ucfg, uinputs, -⟩ := exec_tick_frame hu
      have used : u.inputs = [benchInput 0b0010#4 false] := by
        rw [uinputs, clearResponse_inputs, present_inputs, noInputs, List.tail_nil]
        rfl
      cases (exec_triggerRead u).symm.trans trigger
      refine inPulse_of_trigger (s := u.endCycle) (by rw [endCycle_cfg, ucfg]; exact bounds) (exec_triggerRead _) ?_
      simp [State.hostPassive, used]
  obtain ⟨one, -⟩ := config_wf_iff.mp bounds
  refine ⟨t.buf, _, hc, ht, ?_⟩
  rw [startPulseEnded_of_driven pulse.drive]
  exact ⟨tInputs, congrArg Config.startTicks cfg, fun _ => ⟨rfl, pulse⟩, by omega, by omega⟩

end Script

end Sys2Proof.Machine

open Sys2Proof Sys2Proof.Machine

/-- Settles O55. Through the pulse by `AfterTrigger`, cycle by cycle; a cycle begins the sensor only as `startPulseEnded_iff`
says; and without TRIGGER_READ no cycle leads out of `NoPulse`. That a TRIGGER_READ in the cycle of OVF_START_END makes the
sensor wait on is the model's reading of R87 (log 17). -/
theorem theSensorBeginsWhenTheStartPulseIsOver : Obligations.TheSensorBeginsWhenTheStartPulseIsOver := by
  refine ⟨fun s p ws bounds noInputs passive => ?pulse, fun p w s c h => ?begins, fun s p c ws noTrigger => ?reset,
    fun s p ws below noTrigger => ?init, fun s p ws noPulse noTrigger => Script.waiting_of_noPulse p noPulse noTrigger⟩
  case pulse =>
    obtain ⟨m, b, hb, hstep, bench⟩ := Script.afterTrigger_of_trigger p bounds noInputs
    obtain ⟨c, hc, hrun, bench'⟩ := bench.run passive
    rw [Nat.zero_add] at bench'
    rw [Nat.zero_sub, List.drop_zero, Nat.sub_zero] at hrun
    refine ⟨c, (Script.benchRun_cons hb).trans hc, cycles_succ_eq_next.mpr ⟨_, step_of_inputs _ hstep, hrun⟩, fun lt => ?_,
      fun eq => ?_, bench'.after⟩
    · obtain ⟨waiting, pulse⟩ := bench'.during lt
      exact ⟨waiting, pulse.drive⟩
    · have released := bench'.ended eq
      exact ⟨released.phase, released.drive⟩
  case begins =>
    obtain ⟨-, sensor⟩ := Script.benchCycle_eq_some.mp h
    cases ended : Script.startPulseEnded (w.getLsbD 3) s c.state with
    | false => exact .inl (by rw [sensor, ended]; rfl)
    | true =>
      obtain ⟨noReset, run, ovfEn, capEn, top, released⟩ := (Script.startPulseEnded_iff ..).mp ended
      refine .inr ⟨by rw [sensor, ended]; rfl, released, noReset, fun l => ?_⟩
      refine (execTick_wrap l s run (by rw [capEn, Bool.false_and]) top ovfEn).trans ?_
      rw [raiseEvent_overflow_eq_exec, loadCounter_capEn, sampleLine_capEn, capEn]
      rfl
  case reset =>
    have rst : (1#1 ++ c : BitVec 4).getLsbD 3 = true := by revert c; decide
    obtain ⟨t, ht⟩ := step_completes (s.present (Script.benchInput (1#1 ++ c) false))
    refine Script.waiting_after_cycle p ht (by simp [Script.startPulseEnded, rst]) ?_ noTrigger
    rcases step_cases ht with ⟨-, u, hu, rfl⟩ | ⟨noReset, -⟩
    · cases hu
      exact .inl rfl
    · exact absurd (rst.symm.trans noReset) (by decide)
  case init =>
    obtain ⟨t, ht⟩ := step_completes (s.present (Script.benchInput 0b0001#4 false))
    have notTop : s.counter ≠ cmax := mt counter_eq_sentinel_iff.mp below
    refine Script.waiting_after_cycle p ht (by simp [Script.startPulseEnded, notTop]) ?_ noTrigger
    rcases step_cases ht with ⟨reset, -⟩ | ⟨-, u, v, -, hv, rfl⟩
    · cases reset
    · have init : exec .init u = .next v := hv
      cases (exec_init u).symm.trans init
      exact .inl rfl
end
